-- ==== Sys2Proof/Word.lean ====
section
/-! DEFINITION. The widths of the tracker's values: 16-bit positions (W_POS), 32-bit words and CPU counts (W_CLK), of 00_scope.md rule R6 and 20_memory.md rule R40. -/

namespace Sys2Proof

/-- `W_POS`: a position, a count or an immediate, 16 bits unsigned (R6). -/
abbrev Pos := BitVec 16

/-- A command word or a response, 32 bits (R40). -/
abbrev Word := BitVec 32

/-- `W_CLK`: the CPU cycle counter, 32 bits unsigned (R6). -/
abbrev Clk := BitVec 32

/-- A byte of a host that moves words as bytes (R38). -/
abbrev Byte := BitVec 8

/-- `zext_32` of a Boolean: `true` is 1, `false` is 0 (R8, R51). -/
def zextBool (b : Bool) : Word := (BitVec.ofBool b).setWidth 32

/-- `zext_32` of a 16-bit unsigned value (R8, R51). -/
def zextPos (p : Pos) : Word := p.setWidth 32

/-- `twos_32`: the 32-bit two's-complement encoding of an integer (R8, R51). -/
def twos32 (d : Int) : Word := BitVec.ofInt 32 d

/-- A count modulo 2^32 (R51). -/
def count32 (c : Nat) : Word := BitVec.ofNat 32 c

end Sys2Proof
end

