-- ==== Sys2Proof/Syntax.lean ====
section
/-! DEFINITION. The 29 commands of 30_encoding.md rule R53 (one constructor per row of spec/opcode_table.json), the pseudo-commands of rule R56, and the assembler's source lines of rule R55. -/

namespace Sys2Proof

/-- The two axes: `V` vertical (lines), `H` horizontal (positions in a line) (R11). -/
inductive Axis where
  | V
  | H
deriving DecidableEq, Repr, Inhabited

/-- One command with its operands, each at the width the command word gives it (R49, R50).
Operand names are those of the rules. -/
inductive Instr where
  /-- AXADD a, i (R59). -/
  | axadd (a : Axis) (i : Pos)
  /-- AXNEXT a (R60). -/
  | axnext (a : Axis)
  /-- AXRED a, s (R61). -/
  | axred (a : Axis) (s : Bool)
  /-- AXB0 a, m (R62). -/
  | axb0 (a : Axis) (m : Pos)
  /-- AXPOS a (R63). -/
  | axpos (a : Axis)
  /-- AXPOS0 a (R64). -/
  | axpos0 (a : Axis)
  /-- AXBLANK a (R65). -/
  | axblank (a : Axis)
  /-- AXLBLANK a (R66). -/
  | axlblank (a : Axis)
  /-- AXVIS a (R67). -/
  | axvis (a : Axis)
  /-- AXDISP a (R68). -/
  | axdisp (a : Axis)
  /-- AXSCR a (R69). -/
  | axscr (a : Axis)
  /-- AXRDRED a (R70). -/
  | axrdred (a : Axis)
  /-- MOVE n (R75). -/
  | move (n : Pos)
  /-- RED2 v, h (R76). -/
  | red2 (v h : Bool)
  /-- VISPOS a (R77). -/
  | vispos (a : Axis)
  /-- DISPPOS a (R78). -/
  | disppos (a : Axis)
  /-- BLKCOL (R79). -/
  | blkcol
  /-- CYCLE (R80). -/
  | cycle
  /-- VIS2 (R81). -/
  | vis2
  /-- DISP2 (R82). -/
  | disp2
  /-- SCR2 (R83). -/
  | scr2
  /-- VBLANK (R84). -/
  | vblank
  /-- LASTVBLANK (R85). -/
  | lastvblank
  /-- TICK (R88). -/
  | tick
  /-- RUN (R90). -/
  | run
  /-- LINECMP cmp (R93). -/
  | linecmp (cmp : Pos)
  /-- RDLINE (R94). -/
  | rdline
  /-- RDSTAT (R95). -/
  | rdstat
  /-- RESET (R115). -/
  | reset
deriving DecidableEq, Repr, Inhabited

/-- The pseudo-commands of R56; each has an expansion and no encoding of its own. -/
inductive Pseudo where
  | redv (s : Bool)
  | redh (s : Bool)
  | cols40 (b : Bool)
  | rows25 (b : Bool)
  | ticks (k : Nat)
  | nop
deriving DecidableEq, Repr

/-- An operand as the assembler reads it (R55): an axis letter, the words `true` and `false`, or a number. -/
inductive Operand where
  | axis (a : Axis)
  | word (b : Bool)
  | num (n : Nat)
deriving DecidableEq, Repr

/-- One source line of the assembler (R55): a mnemonic and its operands in order. -/
structure Source where
  mnemonic : String
  operands : List Operand
deriving DecidableEq, Repr

end Sys2Proof
end

