-- ==== Sys2Proof/Config.lean ====
section
/-! DEFINITION. The configuration G of 00_scope.md rule R6, the VIC-II PAL profile with its OPEN fields as parameters, the OPEN parameters of the host interface, and the free values the spec does not define. -/

namespace Sys2Proof

/-- The geometry of one axis (R6), each field 16 bits unsigned. -/
structure AxisGeometry where
  /-- `firstPosition`: the absolute counter value where base-0 position 0 lies. -/
  first : Pos
  /-- `firstVisiblePosition`, absolute. -/
  firstVis : Pos
  /-- `firstDisplayPosition`, absolute. -/
  firstDisp : Pos
  /-- `lastDisplayPosition`, absolute. -/
  lastDisp : Pos
  /-- `lastVisiblePosition`, absolute. -/
  lastVis : Pos
  /-- `lastPosition`, absolute. -/
  last : Pos
  /-- `maxPositions`: positions per line (H) or lines per frame (V). -/
  max : Pos
  /-- `positionsToReduce1`: trimmed from the first side when reduced. -/
  r1 : Pos
  /-- `positionsToReduce2`: trimmed from the last side when reduced. -/
  r2 : Pos
deriving DecidableEq, Repr, Inhabited

/-- The whole geometry `G` (R6): the two axes, positions per chip cycle, chip cycles per CPU cycle.
The width of `ppc` and `cpc` is the 16 bits R6 gives every geometry field (DEDUCED, log entry 12). -/
structure Geometry where
  v : AxisGeometry
  h : AxisGeometry
  ppc : Pos
  cpc : Pos
deriving DecidableEq, Repr, Inhabited

/-- `G.a` for an axis `a` (R9). -/
def Geometry.axis (g : Geometry) : Axis → AxisGeometry
  | .V => g.v
  | .H => g.h

/-- The fields of the VIC-II PAL geometry that R6 leaves OPEN, as parameters (93_implementation_defined.md P1). -/
structure PalOpen where
  vFirstVis : Pos
  vFirstDisp : Pos
  vLastDisp : Pos
  vLastVis : Pos
  vR1 : Pos
  vR2 : Pos
  hFirst : Pos
  hFirstVis : Pos
  hFirstDisp : Pos
  hLastDisp : Pos
  hLastVis : Pos
  hLast : Pos
  hR1 : Pos
  hR2 : Pos
deriving DecidableEq, Repr

/-- The VIC-II PAL profile (R6, D38): the fixed totals, and the OPEN fields as given. The totals are
the unaudited literals L1 and L2 of 93_implementation_defined.md, transcribed (R7). -/
def Config.vicIIPal (o : PalOpen) : Geometry where
  v := { first := 0, firstVis := o.vFirstVis, firstDisp := o.vFirstDisp, lastDisp := o.vLastDisp,
         lastVis := o.vLastVis, last := 311, max := 312, r1 := o.vR1, r2 := o.vR2 }
  h := { first := o.hFirst, firstVis := o.hFirstVis, firstDisp := o.hFirstDisp, lastDisp := o.hLastDisp,
         lastVis := o.hLastVis, last := o.hLast, max := 504, r1 := o.hR1, r2 := o.hR2 }
  ppc := 8
  cpc := 1

/-- The OPEN fields of PALX, the spec's own illustrative values (95_test_vectors.md section 1): "not
VIC-II values". DESIGN CHOICE, unsafe: log entry 2. -/
def Config.palxOpen : PalOpen where
  vFirstVis := 16
  vFirstDisp := 51
  vLastDisp := 250
  vLastVis := 299
  vR1 := 2
  vR2 := 2
  hFirst := 0
  hFirstVis := 24
  hFirstDisp := 48
  hLastDisp := 367
  hLastVis := 455
  hLast := 503
  hR1 := 8
  hR2 := 8

/-- The geometry `State.reset` carries: PALX. Every statement holds for every geometry, so none rests
on this value. DESIGN CHOICE, unsafe: log entry 2. -/
def Config.resetGeometry : Geometry := Config.vicIIPal Config.palxOpen

/-- The block width of `(cv>>3)<<3`: the unaudited literal L3 of 93_implementation_defined.md, which a
model treats as a parameter with the transcribed value as its default (R7, R79). Log entry 17. -/
def Config.blockWidth : Int := 8

/-- The order in which a host splits a 32-bit word into bytes. -/
inductive ByteOrder where
  | little
  | big
deriving DecidableEq, Repr, Inhabited

/-- `RESP_BYTE_ORDER`, OPEN (R38, D28); no rule of the tracker reads it. Log entry 11. -/
opaque Config.respByteOrder : ByteOrder

/-- `CYCLE_BASE`, OPEN (R6, R80, D24); no rule of the tracker reads it. Log entry 11. -/
opaque Config.cycleBase : Int

/-- What `x mod 0` gives: R8 defines `mod` for a positive modulus only. A free value (DESIGN CHOICE,
log entry 8), met only under a geometry with `max = 0`. -/
opaque Config.moduloZero : Int → Pos

/-- What `x div 0` gives: a free value (DESIGN CHOICE, log entry 8), met only under a geometry with
`PPC = 0`. -/
opaque Config.divideZero : Nat → Nat

end Sys2Proof
end

