-- ==== Sys2Proof/Machine/Geometry.lean ====
section
/-! DEFINITION. Arithmetic on the geometry: `mod` and `div` of 00_scope.md rule R8, base-0 forms (10_state.md R16, R19), and the geometry invariants g1 to g7 (70_reset_and_hazards.md R114). -/

namespace Sys2Proof.Machine

/-- `x mod m` as a 16-bit position (R8): the mathematical remainder for `m > 0`, and a free value for
`m = 0`, where R8 defines none (log entry 8). -/
def modulo (x : Int) (m : Pos) : Pos :=
  if m = 0 then Config.moduloZero x else BitVec.ofInt 16 (x % (m.toNat : Int))

/-- `x div m` (R8): floor division for `m > 0`, and a free value for `m = 0` (log entry 8). -/
def floorDiv (x : Nat) (m : Pos) : Nat :=
  if m = 0 then Config.divideZero x else x / m.toNat

/-- `toBase0_a(m)` (R16): the base-0 offset of an absolute counter value. -/
def toBase0 (g : AxisGeometry) (m : Pos) : Pos :=
  modulo ((m.toNat : Int) - (g.first.toNat : Int)) g.max

/-- `firstVis_0` (R19). -/
def firstVis0 (g : AxisGeometry) : Pos := toBase0 g g.firstVis

/-- `firstDisp_0` (R19). -/
def firstDisp0 (g : AxisGeometry) : Pos := toBase0 g g.firstDisp

/-- `lastDisp_0` (R19). -/
def lastDisp0 (g : AxisGeometry) : Pos := toBase0 g g.lastDisp

/-- `lastVis_0` (R19). -/
def lastVis0 (g : AxisGeometry) : Pos := toBase0 g g.lastVis

/-- `last_0` (R18). -/
def last0 (g : AxisGeometry) : Pos := toBase0 g g.last

/-- g1: `1 <= max <= 65535`; the upper bound is the field's width (R114). -/
def geomG1 (g : AxisGeometry) : Bool := decide (1 ≤ g.max.toNat)

/-- g2: every absolute boundary is below `max` (R114). -/
def geomG2 (g : AxisGeometry) : Bool :=
  decide (g.first.toNat < g.max.toNat ∧ g.firstVis.toNat < g.max.toNat ∧ g.firstDisp.toNat < g.max.toNat ∧
    g.lastDisp.toNat < g.max.toNat ∧ g.lastVis.toNat < g.max.toNat ∧ g.last.toNat < g.max.toNat)

/-- g3: `last_0 = max - 1` (R114, R18). -/
def geomG3 (g : AxisGeometry) : Bool := decide ((last0 g).toNat + 1 = g.max.toNat)

/-- g4: the display zone lies inside the visible zone (R114). -/
def geomG4 (g : AxisGeometry) : Bool :=
  decide ((firstVis0 g).toNat ≤ (firstDisp0 g).toNat ∧ (firstDisp0 g).toNat ≤ (lastDisp0 g).toNat ∧
    (lastDisp0 g).toNat ≤ (lastVis0 g).toNat)

/-- g5: the reduced screen zone keeps at least one position (R114). -/
def geomG5 (g : AxisGeometry) : Bool :=
  decide ((g.r1.toNat : Int) + (g.r2.toNat : Int) ≤ ((lastDisp0 g).toNat : Int) - ((firstDisp0 g).toNat : Int))

/-- The invariants of one axis, g1 first, so that no base-0 form of a zero `max` decides anything (R114). -/
def axisOK (g : AxisGeometry) : Bool :=
  geomG1 g && geomG2 g && geomG3 g && geomG4 g && geomG5 g

/-- g6: a line holds a whole number of chip cycles (R114). -/
def geomG6 (g : Geometry) : Bool :=
  decide (1 ≤ g.ppc.toNat ∧ g.ppc.toNat ≤ g.h.max.toNat ∧ g.h.max.toNat % g.ppc.toNat = 0)

/-- g7: at least one chip cycle per CPU cycle (R114). -/
def geomG7 (g : Geometry) : Bool := decide (1 ≤ g.cpc.toNat)

/-- `GeomOK(G)` (R114). -/
def geomOK (g : Geometry) : Bool := axisOK g.v && axisOK g.h && geomG6 g && geomG7 g

end Sys2Proof.Machine
end

