-- ==== Sys2Proof/Machine/Tracker.lean ====
section
/-! DEFINITION. The tracker record S of 10_state.md rule R13, the response codes of 30_encoding.md rule R51, the events of 42_cycle_driver.md rule R87, and the record RESET establishes (70_reset_and_hazards.md R115). -/

namespace Sys2Proof.Machine

/-- The state of one axis (R13 to R15). -/
structure AxisState where
  /-- `currentPosition_0`, the base-0 beam position (R14). -/
  p0 : Pos
  /-- `displayZoneReduced` (R15). -/
  reduced : Bool
deriving DecidableEq, Repr

/-- The states of the simulate loop (R23). -/
inductive RunState where
  | idle
  | loop
deriving DecidableEq, Repr

/-- The tracker state `S`, "exactly this record" (R13). -/
structure Tracker where
  /-- The vertical axis (lines). -/
  v : AxisState
  /-- The horizontal axis (positions in a line). -/
  h : AxisState
  /-- `_isNewRasterLine` (R21). -/
  newLine : Bool
  /-- `_lastVBlankEntered` (R22). -/
  vblankSeen : Bool
  /-- IDLE or LOOP (R23). -/
  run : RunState
  /-- `_lastCPUCycles` (R24). -/
  lastCPU : Clk
  /-- The raster line written back (R25). -/
  lineReg : Pos
  /-- The sticky error flag (R26). -/
  err : Bool
  /-- The geometry is invalid (R27). -/
  faulted : Bool
deriving DecidableEq, Repr

/-- The response codes of `RCODE` (R51). -/
inductive RCode where
  | ok
  | illegalCommand
  | geometryInvalid
  | overstep
deriving DecidableEq, Repr

/-- The two bits of `RCODE` (R51). -/
def rcodeBits : RCode → BitVec 2
  | .ok => 0
  | .illegalCommand => 1
  | .geometryInvalid => 2
  | .overstep => 3

/-- The fields of a `DrawWindow` event (R87); the coordinates are signed and unclipped (R125). -/
structure DrawWindow where
  x : Int
  y : Int
  blk : Int
  dx : Int
  dy : Int
  disp : Bool
  scr : Bool
  scrV : Bool
  scrH : Bool
deriving DecidableEq, Repr

/-- The events of a chip cycle with their fields (R87). -/
inductive Event where
  | lineStart (line v0 : Pos)
  | cycleStart (line v0 h0 : Pos) (cyc : Nat)
  | drawWindow (w : DrawWindow)
  | irqEval
  | advance (newLine newFrame : Bool)
  | frameReady (line : Pos)
deriving DecidableEq, Repr

/-- One entry of the output `EVT`: the event, and what the outputs `LINE` and `LINEREG` show a consumer
at its emission (R47 "valid between commands and at every event of a TICK", R87). Log entry 6. -/
structure Emission where
  event : Event
  line : Pos
  lineReg : Pos
deriving DecidableEq, Repr

/-- `S.a` for an axis `a` (R9). -/
def Tracker.axis (t : Tracker) : Axis → AxisState
  | .V => t.v
  | .H => t.h

/-- `S.a.p0 <- p` (R9, R14). -/
def Tracker.setP0 (t : Tracker) (a : Axis) (p : Pos) : Tracker :=
  match a with
  | .V => { t with v := { t.v with p0 := p } }
  | .H => { t with h := { t.h with p0 := p } }

/-- `S.a.reduced <- b` (R9, R15). -/
def Tracker.setReduced (t : Tracker) (a : Axis) (b : Bool) : Tracker :=
  match a with
  | .V => { t with v := { t.v with reduced := b } }
  | .H => { t with h := { t.h with reduced := b } }

/-- The record RESET establishes (R115), the reset value of every field (R14, R15, R21 to R27). -/
def resetTracker (g : Geometry) : Tracker where
  v := { p0 := 0, reduced := false }
  h := { p0 := 0, reduced := false }
  newLine := true
  vblankSeen := false
  run := .idle
  lastCPU := 0
  lineReg := modulo (g.v.first.toNat : Int) g.v.max
  err := !geomOK g
  faulted := !geomOK g

/-- The response code of RESET (R115). -/
def resetCode (g : Geometry) : RCode := if geomOK g then .ok else .geometryInvalid

end Sys2Proof.Machine
end

