-- ==== Sys2Proof/Machine/State.lean ====
section
/-! DEFINITION. The machine's state as plain data: the configuration G, the tracker record of 10_state.md rule R13, and the ports of 30_encoding.md rule R47. -/

namespace Sys2Proof.Machine

/-- One command the driver presents: the word on `CMD` and what `CPUCLK` shows then (R47, R48). -/
structure Transaction where
  cmd : Word
  cpuClk : Clk
deriving DecidableEq, Repr

/-- The state. `trk` is the record `S` of R13 and nothing else of the tracker is state; `geom` is the
configuration `G`, which the step takes as a parameter this way and no step writes (R12, log entry 1);
the rest are the ports of R47. -/
structure State where
  /-- The configuration `G` (R6, R12). -/
  geom : Geometry
  /-- The tracker record `S` (R13). -/
  trk : Tracker
  /-- The output `RESP` (R51). -/
  resp : Word
  /-- The output `RCODE` (R51). -/
  rcode : RCode
  /-- The output `EVT`: the events of the last command, in order (R47, R87; log entry 6). -/
  evt : List Emission
  /-- The input `CPUCLK` as it stands (R47). -/
  cpuClk : Clk
  /-- The commands the driver has yet to present, next first (R29, R48; log entry 3). -/
  inputs : List Transaction
deriving DecidableEq, Repr

/-- Faults that stop the machine: there are none. The tracker's three faults are responses after which
the machine goes on (60_exceptions.md R97, R105), so a fault is a next state. Safe: nothing stops. -/
inductive Fault where
deriving DecidableEq, Repr

/-- Refusals of the model. -/
inductive Refusal where
  /-- Raised by an arm of `exec` whose instruction has no meaning yet: no arm raises it. Safe. -/
  | notModelled (mnemonic : String)
deriving DecidableEq, Repr

/-- Power-on with the geometry `g` (R116): the record RESET gives, with `RESP` and `RCODE` as RESET
would set them, no event, and nothing presented. `CPUCLK` is an input: 0, DESIGN CHOICE, log entry 5. -/
def State.powerOn (g : Geometry) : State where
  geom := g
  trk := resetTracker g
  resp := 0
  rcode := resetCode g
  evt := []
  cpuClk := 0
  inputs := []

/-- The machine right after reset. Its geometry is a DESIGN CHOICE (log entry 2). -/
def State.reset : State := State.powerOn Config.resetGeometry

end Sys2Proof.Machine
end

