-- ==== Sys2Proof/Machine/Operands.lean ====
section
/-! DEFINITION. What commands read: the positions and coordinates of an axis (10_state.md R17, 41_raster_ops.md R77 to R80), and the output ports LINE and LINEREG (30_encoding.md R47). -/

namespace Sys2Proof.Machine

/-- `pos_a(S)`, the absolute position (R17). -/
def posOf (g : AxisGeometry) (x : AxisState) : Pos :=
  modulo ((g.first.toNat : Int) + (x.p0.toNat : Int)) g.max

/-- `pos_V(S)`, the raster line (R17). -/
def rasterLine (g : Geometry) (t : Tracker) : Pos := posOf g.v t.v

/-- The coordinate relative to the first visible position, signed and unclipped (R77). -/
def visCoord (g : AxisGeometry) (x : AxisState) : Int :=
  (x.p0.toNat : Int) - ((firstVis0 g).toNat : Int)

/-- The coordinate relative to the fixed display origin, signed and unclipped (R78). -/
def dispCoord (g : AxisGeometry) (x : AxisState) : Int :=
  (x.p0.toNat : Int) - ((firstDisp0 g).toNat : Int)

/-- `(cv >> 3) << 3` with floor division; the block width is the literal 8 of SUB001, not `PPC` (R79). -/
def blockColumn (cv : Int) : Int := (cv / Config.blockWidth) * Config.blockWidth

/-- The chip cycle within the line, counted from 0 (R80). -/
def cycleInLine (g : Geometry) (t : Tracker) : Nat := floorDiv t.h.p0.toNat g.ppc

/-- SUB001's number of the cycle the beam is in: "SUB001's cycle `c` is CYCLE `= c - CYCLE_BASE`"
(R80). For a consumer; no command reads it. -/
def sourceCycle (g : Geometry) (t : Tracker) : Int := (cycleInLine g t : Int) + Config.cycleBase

/-- The output `LINE`, the live raster line (R47). -/
def State.linePort (s : State) : Pos := rasterLine s.geom s.trk

/-- The output `LINEREG` (R47). -/
def State.lineRegPort (s : State) : Pos := s.trk.lineReg

end Sys2Proof.Machine
end

