-- ==== Sys2Proof/Machine/Flags.lean ====
section
/-! DEFINITION. The zone predicates (10_state.md R20, 40_axis_ops.md R58, 41_raster_ops.md R73), the status word (10_state.md R31) and the response word of TICK (42_cycle_driver.md R88). -/

namespace Sys2Proof.Machine

/-- `firstScr_0` (R20). -/
def firstScr0 (g : AxisGeometry) (x : AxisState) : Int :=
  ((firstDisp0 g).toNat : Int) + (if x.reduced then (g.r1.toNat : Int) else 0)

/-- `lastScr_0` (R20). -/
def lastScr0 (g : AxisGeometry) (x : AxisState) : Int :=
  ((lastDisp0 g).toNat : Int) - (if x.reduced then (g.r2.toNat : Int) else 0)

/-- `blank_a` (R58). -/
def inBlank (g : AxisGeometry) (x : AxisState) : Bool :=
  decide (x.p0.toNat < (firstVis0 g).toNat ∨ (lastVis0 g).toNat < x.p0.toNat)

/-- `lastBlank_a` (R58). -/
def inLastBlank (g : AxisGeometry) (x : AxisState) : Bool :=
  decide ((lastVis0 g).toNat < x.p0.toNat)

/-- `visible_a` (R58). -/
def inVisible (g : AxisGeometry) (x : AxisState) : Bool :=
  decide ((firstVis0 g).toNat ≤ x.p0.toNat ∧ x.p0.toNat ≤ (lastVis0 g).toNat)

/-- `display_a` (R58); independent of the reduction (90_conflicts.md C1). -/
def inDisplay (g : AxisGeometry) (x : AxisState) : Bool :=
  decide ((firstDisp0 g).toNat ≤ x.p0.toNat ∧ x.p0.toNat ≤ (lastDisp0 g).toNat)

/-- `screen_a` (R58). -/
def inScreen (g : AxisGeometry) (x : AxisState) : Bool :=
  decide (firstScr0 g x ≤ (x.p0.toNat : Int) ∧ (x.p0.toNat : Int) ≤ lastScr0 g x)

/-- `visible2` (R73). -/
def visible2 (g : Geometry) (t : Tracker) : Bool := inVisible g.v t.v && inVisible g.h t.h

/-- `display2` (R73). -/
def display2 (g : Geometry) (t : Tracker) : Bool := inDisplay g.v t.v && inDisplay g.h t.h

/-- `screen2` (R73). -/
def screen2 (g : Geometry) (t : Tracker) : Bool := inScreen g.v t.v && inScreen g.h t.h

/-- `vblank`: the vertical axis only (R73, 90_conflicts.md C2). -/
def inVblank (g : Geometry) (t : Tracker) : Bool := inBlank g.v t.v

/-- `lastVblank`: the vertical axis only (R73). -/
def inLastVblank (g : Geometry) (t : Tracker) : Bool := inLastBlank g.v t.v

/-- A word from its low bits, bit 0 first, the others 0. -/
def packBits : List Bool → Word
  | [] => 0
  | b :: bs => zextBool b ||| (packBits bs <<< 1)

/-- The status word, bit 0 NL up to bit 6 HRED, bits 31:7 zero (R31). -/
def statusWord (t : Tracker) : Word :=
  packBits [t.newLine, t.vblankSeen, t.run == .loop, t.err, t.faulted, t.v.reduced, t.h.reduced]

/-- The response of TICK: bit 0 `nl`, bit 1 `dr`, bit 2 `w`, bit 3 `fw`, bit 4 `fr` (R88). -/
def tickWord (nl dr w fw fr : Bool) : Word := packBits [nl, dr, w, fw, fr]

end Sys2Proof.Machine
end

