-- ==== Sys2Proof/Machine/Ops.lean ====
section
/-! DEFINITION. The shared operations: completing a command, the fault primitive (60_exceptions.md R97), the advance of an axis and of the beam (40_axis_ops.md R57, 41_raster_ops.md R74), and the chip cycle with its events (42_cycle_driver.md R86 to R89). -/

namespace Sys2Proof.Machine

/-- A command that completes: the record it leaves, its response and its events; `RCODE` is OK (R51). -/
def complete (s : State) (t : Tracker) (r : Word) (ev : List Emission) : State :=
  { s with trk := t, resp := r, rcode := .ok, evt := ev }

/-- `raise Fault(code)`: `RCODE <- code`, `RESP <- 0`, `S.err <- true`, no event, and nothing else of `S`
changes (R97). There is no trap entry and no return from one (R105, R106). -/
def raiseFault (s : State) (c : RCode) : State :=
  { s with trk := { s.trk with err := true }, resp := 0, rcode := c, evt := [] }

/-- What every command but RESET does first: while the tracker is faulted it ends in GEOMETRY_INVALID
(R27, R99). -/
def unlessFaulted (s s' : State) : Host.Outcome State Fault Refusal :=
  if s.trk.faulted then .next (raiseFault s .geometryInvalid) else .next s'

/-- A command that only answers: no state change, no event. -/
def query (s : State) (r : Word) : Host.Outcome State Fault Refusal :=
  unlessFaulted s (complete s s.trk r [])

/-- `advance_a(S, i)`: the new `p0` and "crossed the wrap boundary"; the sum is exact (R57). -/
def advance (g : AxisGeometry) (x : AxisState) (i : Nat) : Pos × Bool :=
  (modulo ((x.p0.toNat + i : Nat) : Int) g.max, decide (g.max.toNat ≤ x.p0.toNat + i))

/-- What an advance of the beam leaves: the record, "new raster line entered" and "new frame". -/
structure BeamMove where
  trk : Tracker
  newLine : Bool
  newFrame : Bool
deriving DecidableEq, Repr

/-- The horizontal advance by `k` positions with the cascade: a wrap of H advances V by exactly one
(R74, R75, R88). -/
def advanceBeam (g : Geometry) (t : Tracker) (k : Nat) : BeamMove :=
  let mh := advance g.h t.h k
  let t1 := t.setP0 .H mh.1
  if mh.2 then
    let mv := advance g.v t1.v 1
    { trk := t1.setP0 .V mv.1, newLine := true, newFrame := mv.2 }
  else
    { trk := t1, newLine := false, newFrame := false }

/-- An event with what `LINE` and `LINEREG` show at its emission. -/
def emission (g : Geometry) (t : Tracker) (e : Event) : Emission :=
  { event := e, line := rasterLine g t, lineReg := t.lineReg }

/-- The fields of the `DrawWindow` event (R87). -/
def drawWindowOf (g : Geometry) (t : Tracker) : DrawWindow where
  x := visCoord g.h t.h
  y := visCoord g.v t.v
  blk := blockColumn (visCoord g.h t.h)
  dx := dispCoord g.h t.h
  dy := dispCoord g.v t.v
  disp := display2 g t
  scr := screen2 g t
  scrV := inScreen g.v t.v
  scrH := inScreen g.h t.h

/-- The events of phases P1 to P4, before the advance (R86, R88). -/
def eventsBefore (g : Geometry) (t : Tracker) : List Emission :=
  (if t.newLine then [emission g t (.lineStart (rasterLine g t) t.v.p0)] else [])
    ++ [emission g t (.cycleStart (rasterLine g t) t.v.p0 t.h.p0 (cycleInLine g t))]
    ++ (if visible2 g t then [emission g t (.drawWindow (drawWindowOf g t))] else [])
    ++ [emission g t .irqEval]

/-- Phase P5: the beam moves one chip cycle, and `newLine` latches whether a line began (R86, R88). -/
def advancePhase (g : Geometry) (t : Tracker) : BeamMove :=
  let b := advanceBeam g t g.ppc.toNat
  { b with trk := { b.trk with newLine := b.newLine } }

/-- The frame event fires now: the beam is in the last VBlank zone and the guard is down (R89). -/
def frameFires (g : Geometry) (t : Tracker) : Bool := inLastVblank g t && !t.vblankSeen

/-- Phase P6: the guard after the advance (R89). -/
def framePhase (g : Geometry) (t : Tracker) : Tracker := { t with vblankSeen := inLastVblank g t }

/-- The events of phases P5 and P6, after the advance (R86, R88, R89). -/
def eventsAfter (g : Geometry) (b : BeamMove) : List Emission :=
  emission g b.trk (.advance b.newLine b.newFrame)
    :: (if frameFires g b.trk then [emission g b.trk (.frameReady (rasterLine g b.trk))] else [])

/-- What one chip cycle leaves: the record, its events in phase order, and the response of TICK. -/
structure ChipCycle where
  trk : Tracker
  evt : List Emission
  resp : Word
deriving DecidableEq, Repr

/-- One chip cycle, phases P1 to P6 (R86, R88). -/
def chipCycle (g : Geometry) (t : Tracker) : ChipCycle :=
  let b := advancePhase g t
  { trk := framePhase g b.trk
    evt := eventsBefore g t ++ eventsAfter g b
    resp := tickWord t.newLine (visible2 g t) b.newLine b.newFrame (frameFires g b.trk) }

/-- The record after `n` chip cycles (R90 "repeat N times: TICK"). -/
def cyclesTracker (g : Geometry) : Nat → Tracker → Tracker
  | 0, t => t
  | n + 1, t => cyclesTracker g n (chipCycle g t).trk

/-- The events of `n` chip cycles, appended in order (R90). -/
def cyclesEvents (g : Geometry) : Nat → Tracker → List Emission
  | 0, _ => []
  | n + 1, t => (chipCycle g t).evt ++ cyclesEvents g n (chipCycle g t).trk

end Sys2Proof.Machine
end

