-- ==== Sys2Proof/Machine/AxisCommands.lean ====
section
/-! DEFINITION. The per-axis commands (40_axis_ops.md rules R59 to R70). -/

namespace Sys2Proof.Machine

/-- AXADD: advance one axis by `i`; the other axis and the latches stay (R59). -/
def execAxadd (a : Axis) (i : Pos) (s : State) : Host.Outcome State Fault Refusal :=
  let m := advance (s.geom.axis a) (s.trk.axis a) i.toNat
  unlessFaulted s (complete s (s.trk.setP0 a m.1) (zextBool m.2) [])

/-- AXNEXT: advance one axis by one (R60). -/
def execAxnext (a : Axis) (s : State) : Host.Outcome State Fault Refusal :=
  let m := advance (s.geom.axis a) (s.trk.axis a) 1
  unlessFaulted s (complete s (s.trk.setP0 a m.1) (zextBool m.2) [])

/-- AXRED: set the display-zone reduction of one axis; a no-op when it is so already (R61). -/
def execAxred (a : Axis) (b : Bool) (s : State) : Host.Outcome State Fault Refusal :=
  unlessFaulted s (complete s (s.trk.setReduced a b) 0 [])

/-- AXB0: the base-0 form of an absolute counter value (R62). -/
def execAxb0 (a : Axis) (m : Pos) (s : State) : Host.Outcome State Fault Refusal :=
  query s (zextPos (toBase0 (s.geom.axis a) m))

/-- AXPOS: the absolute position (R63). -/
def execAxpos (a : Axis) (s : State) : Host.Outcome State Fault Refusal :=
  query s (zextPos (posOf (s.geom.axis a) (s.trk.axis a)))

/-- AXPOS0: the base-0 position (R64). -/
def execAxpos0 (a : Axis) (s : State) : Host.Outcome State Fault Refusal :=
  query s (zextPos (s.trk.axis a).p0)

/-- AXBLANK (R65). -/
def execAxblank (a : Axis) (s : State) : Host.Outcome State Fault Refusal :=
  query s (zextBool (inBlank (s.geom.axis a) (s.trk.axis a)))

/-- AXLBLANK (R66). -/
def execAxlblank (a : Axis) (s : State) : Host.Outcome State Fault Refusal :=
  query s (zextBool (inLastBlank (s.geom.axis a) (s.trk.axis a)))

/-- AXVIS (R67). -/
def execAxvis (a : Axis) (s : State) : Host.Outcome State Fault Refusal :=
  query s (zextBool (inVisible (s.geom.axis a) (s.trk.axis a)))

/-- AXDISP (R68). -/
def execAxdisp (a : Axis) (s : State) : Host.Outcome State Fault Refusal :=
  query s (zextBool (inDisplay (s.geom.axis a) (s.trk.axis a)))

/-- AXSCR (R69). -/
def execAxscr (a : Axis) (s : State) : Host.Outcome State Fault Refusal :=
  query s (zextBool (inScreen (s.geom.axis a) (s.trk.axis a)))

/-- AXRDRED (R70). -/
def execAxrdred (a : Axis) (s : State) : Host.Outcome State Fault Refusal :=
  query s (zextBool (s.trk.axis a).reduced)

end Sys2Proof.Machine
end

