-- ==== Sys2Proof/Machine/DriverCommands.lean ====
section
/-! DEFINITION. The cycle driver's commands (42_cycle_driver.md rules R88 to R95) and RESET (70_reset_and_hazards.md R115). -/

namespace Sys2Proof.Machine

/-- TICK: one chip cycle (R88); `lineReg` stays. -/
def execTick (s : State) : Host.Outcome State Fault Refusal :=
  let c := chipCycle s.geom s.trk
  unlessFaulted s (complete s c.trk c.resp c.evt)

/-- The first RUN: the baseline, which records the CPU count and runs no chip cycle (R90, R122). -/
def runBaseline (s : State) : State :=
  complete s { s.trk with lastCPU := s.cpuClk, run := .loop } 0 []

/-- The chip cycles a RUN in state LOOP runs: `((c - lastCPU) mod 2^32) * CPC` (R90). -/
def runCount (s : State) : Nat := (s.cpuClk - s.trk.lastCPU).toNat * s.geom.cpc.toNat

/-- A RUN in state LOOP: the count sampled at the start is kept, the chip cycles run, and the line is
written back (R90, R91). -/
def runLoop (s : State) : State :=
  let t0 := { s.trk with lastCPU := s.cpuClk }
  let tN := cyclesTracker s.geom (runCount s) t0
  complete s { tN with lineReg := rasterLine s.geom tN } (count32 (runCount s))
    (cyclesEvents s.geom (runCount s) t0)

/-- RUN (R90). -/
def execRun (s : State) : Host.Outcome State Fault Refusal :=
  unlessFaulted s (match s.trk.run with
    | .idle => runBaseline s
    | .loop => runLoop s)

/-- LINECMP: the live absolute line against `cmp` (R93). -/
def execLinecmp (cmp : Pos) (s : State) : Host.Outcome State Fault Refusal :=
  query s (zextBool (rasterLine s.geom s.trk == cmp))

/-- RDLINE: the written-back line (R94). -/
def execRdline (s : State) : Host.Outcome State Fault Refusal :=
  query s (zextPos s.trk.lineReg)

/-- RDSTAT: the status word (R95, R31). -/
def execRdstat (s : State) : Host.Outcome State Fault Refusal :=
  query s (statusWord s.trk)

/-- RESET: accepted while faulted; GEOMETRY_INVALID after the writes when the geometry is invalid; no
event; the inputs are not touched (R115). -/
def execReset (s : State) : Host.Outcome State Fault Refusal :=
  .next { s with trk := resetTracker s.geom, resp := 0, rcode := resetCode s.geom, evt := [] }

end Sys2Proof.Machine
end

