-- ==== Sys2Proof/Machine/RasterCommands.lean ====
section
/-! DEFINITION. The two-axis commands (41_raster_ops.md rules R75 to R85). -/

namespace Sys2Proof.Machine

/-- The record and response of a MOVE by `n` chip cycles, or the fault OVERSTEP (R75, R100). -/
def moveCycles (n : Pos) (s : State) : State :=
  let k := n.toNat * s.geom.ppc.toNat
  if s.geom.h.max.toNat < k then raiseFault s .overstep
  else
    let b := advanceBeam s.geom s.trk k
    complete s b.trk (zextBool b.newLine) []

/-- MOVE: advance the beam by `n` chip cycles; the latches stay (R75). -/
def execMove (n : Pos) (s : State) : Host.Outcome State Fault Refusal :=
  unlessFaulted s (moveCycles n s)

/-- RED2: set both reductions (R76). -/
def execRed2 (v h : Bool) (s : State) : Host.Outcome State Fault Refusal :=
  unlessFaulted s (complete s ((s.trk.setReduced .V v).setReduced .H h) 0 [])

/-- VISPOS (R77). -/
def execVispos (a : Axis) (s : State) : Host.Outcome State Fault Refusal :=
  query s (twos32 (visCoord (s.geom.axis a) (s.trk.axis a)))

/-- DISPPOS (R78). -/
def execDisppos (a : Axis) (s : State) : Host.Outcome State Fault Refusal :=
  query s (twos32 (dispCoord (s.geom.axis a) (s.trk.axis a)))

/-- BLKCOL (R79). -/
def execBlkcol (s : State) : Host.Outcome State Fault Refusal :=
  query s (twos32 (blockColumn (visCoord s.geom.h s.trk.h)))

/-- CYCLE (R80). -/
def execCycle (s : State) : Host.Outcome State Fault Refusal :=
  query s (count32 (cycleInLine s.geom s.trk))

/-- VIS2 (R81). -/
def execVis2 (s : State) : Host.Outcome State Fault Refusal :=
  query s (zextBool (visible2 s.geom s.trk))

/-- DISP2 (R82). -/
def execDisp2 (s : State) : Host.Outcome State Fault Refusal :=
  query s (zextBool (display2 s.geom s.trk))

/-- SCR2 (R83). -/
def execScr2 (s : State) : Host.Outcome State Fault Refusal :=
  query s (zextBool (screen2 s.geom s.trk))

/-- VBLANK (R84). -/
def execVblank (s : State) : Host.Outcome State Fault Refusal :=
  query s (zextBool (inVblank s.geom s.trk))

/-- LASTVBLANK (R85). -/
def execLastvblank (s : State) : Host.Outcome State Fault Refusal :=
  query s (zextBool (inLastVblank s.geom s.trk))

end Sys2Proof.Machine
end

