-- ==== Sys2Proof/Machine/Dispatch.lean ====
section
/-! DEFINITION. exec: one arm per command. -/

namespace Sys2Proof.Machine

def exec (i : Instr) (s : State) : Host.Outcome State Fault Refusal :=
  match i with
  -- 40_axis_ops.md
  | .axadd a n => Sys2Proof.Machine.execAxadd a n s
  | .axnext a => Sys2Proof.Machine.execAxnext a s
  | .axred a b => Sys2Proof.Machine.execAxred a b s
  | .axb0 a m => Sys2Proof.Machine.execAxb0 a m s
  | .axpos a => Sys2Proof.Machine.execAxpos a s
  | .axpos0 a => Sys2Proof.Machine.execAxpos0 a s
  | .axblank a => Sys2Proof.Machine.execAxblank a s
  | .axlblank a => Sys2Proof.Machine.execAxlblank a s
  | .axvis a => Sys2Proof.Machine.execAxvis a s
  | .axdisp a => Sys2Proof.Machine.execAxdisp a s
  | .axscr a => Sys2Proof.Machine.execAxscr a s
  | .axrdred a => Sys2Proof.Machine.execAxrdred a s
  -- 41_raster_ops.md
  | .move n => Sys2Proof.Machine.execMove n s
  | .red2 v h => Sys2Proof.Machine.execRed2 v h s
  | .vispos a => Sys2Proof.Machine.execVispos a s
  | .disppos a => Sys2Proof.Machine.execDisppos a s
  | .blkcol => Sys2Proof.Machine.execBlkcol s
  | .cycle => Sys2Proof.Machine.execCycle s
  | .vis2 => Sys2Proof.Machine.execVis2 s
  | .disp2 => Sys2Proof.Machine.execDisp2 s
  | .scr2 => Sys2Proof.Machine.execScr2 s
  | .vblank => Sys2Proof.Machine.execVblank s
  | .lastvblank => Sys2Proof.Machine.execLastvblank s
  -- 42_cycle_driver.md
  | .tick => Sys2Proof.Machine.execTick s
  | .run => Sys2Proof.Machine.execRun s
  | .linecmp cmp => Sys2Proof.Machine.execLinecmp cmp s
  | .rdline => Sys2Proof.Machine.execRdline s
  | .rdstat => Sys2Proof.Machine.execRdstat s
  -- 70_reset_and_hazards.md
  | .reset => Sys2Proof.Machine.execReset s

end Sys2Proof.Machine
end

