-- ==== Sys2Proof/WellFormed.lean ====
section
/-! DEFINITION. Which command words and which source operands are well formed. A term of `Instr` holds each operand at exactly the width its field has (R49), so every term of `Instr` is well formed; what can be ill formed is a 32-bit command word (30_encoding.md rules R49 and R54) and an operand of a source line (rule R55). The check on words is written field by field from the "Fields" column of R53, apart from the masks the decoder uses. -/

namespace Sys2Proof

/-- Which of the fields of R49 a command's row lists (the "Fields" column of R53). -/
structure FieldUse where
  ax : Bool
  sb : Bool
  hb : Bool
  imm : Bool
deriving DecidableEq, Repr

/-- The "Fields" column of R53 by opcode; `none` is an unassigned opcode (R54). -/
def fieldUse (opc : BitVec 8) : Option FieldUse :=
  if opc = 0x10 ∨ opc = 0x13 then some ⟨true, false, false, true⟩
  else if opc = 0x12 then some ⟨true, true, false, false⟩
  else if opc = 0x11 ∨ (0x14 ≤ opc ∧ opc ≤ 0x1B) then some ⟨true, false, false, false⟩
  else if opc = 0x20 ∨ opc = 0x32 then some ⟨false, false, false, true⟩
  else if opc = 0x21 then some ⟨false, true, true, false⟩
  else if opc = 0x22 ∨ opc = 0x23 then some ⟨true, false, false, false⟩
  else if opc = 0x01 ∨ (0x24 ≤ opc ∧ opc ≤ 0x2A) ∨ opc = 0x30 ∨ opc = 0x31 ∨ opc = 0x33 ∨ opc = 0x34 then
    some ⟨false, false, false, false⟩
  else none

/-- The field `OPC` of a command word (R49). -/
def opcField (cw : Word) : BitVec 8 := cw.extractLsb' 24 8

/-- The field `RSV` of a command word (R49). -/
def rsvField (cw : Word) : BitVec 5 := cw.extractLsb' 19 5

/-- The field `HB` of a command word (R49). -/
def hbField (cw : Word) : Bool := cw.getLsbD 18

/-- The field `SB` of a command word (R49). -/
def sbField (cw : Word) : Bool := cw.getLsbD 17

/-- The field `AX` of a command word (R49). -/
def axField (cw : Word) : Bool := cw.getLsbD 16

/-- The field `IMM` of a command word (R49). -/
def immField (cw : Word) : Pos := cw.extractLsb' 0 16

/-- `RSV` and every field the row does not list are 0 (R49, R54). -/
def fieldsClear (u : FieldUse) (cw : Word) : Bool :=
  rsvField cw == 0 && (u.hb || !hbField cw) && (u.sb || !sbField cw) && (u.ax || !axField cw)
    && (u.imm || immField cw == 0)

/-- A command word is well formed when its opcode is assigned and no reserved or unlisted field holds a 1 (R54). -/
def wordWellFormed (cw : Word) : Bool :=
  match fieldUse (opcField cw) with
  | some u => fieldsClear u cw
  | none => false

/-- A number operand that is an immediate lies in `[0, 65535]` (R55). -/
def immOperandOK : Operand → Bool
  | .num n => decide (n ≤ 65535)
  | _ => false

/-- A Boolean operand is `0`, `1`, `false` or `true` (R55); a number is judged by its value, however it
was spelled (DESIGN CHOICE, log entry 15). -/
def boolOperandOK : Operand → Bool
  | .num n => decide (n ≤ 1)
  | .word _ => true
  | .axis _ => false

/-- An axis operand is `V` or `H` (R55). -/
def axisOperandOK : Operand → Bool
  | .axis _ => true
  | _ => false

end Sys2Proof
end

