-- ==== Sys2Proof/Decode.lean ====
section
/-! DEFINITION. The opcode map and the decoder (30_encoding.md rules R50, R52, R53), the encoder (R49, R55), and the byte forms a host may use (20_memory.md rule R38). -/

namespace Sys2Proof

/-- Why a command word, or a run of bytes, is no command. The first two both answer
ILLEGAL_COMMAND (60_exceptions.md R98). -/
inductive Reject where
  /-- The opcode is in no row of the opcode map (R54). -/
  | unassignedOpcode
  /-- The opcode is assigned, and `RSV` or a field its row does not list holds a 1 (R54). -/
  | strayBits
  /-- Fewer than four bytes: no whole command word (raised by `decodeBytes` only). -/
  | truncated
deriving DecidableEq, Repr

/-- The operands a command word holds (R50); each command uses those its row lists. -/
structure Operands where
  ax : Axis
  s : Bool
  h : Bool
  imm : Pos
deriving DecidableEq, Repr

/-- The axis of an `AX` bit: 0 is V, 1 is H (R49, R50). -/
def axisOfBit (b : Bool) : Axis := if b then .H else .V

/-- Operand assembly (R50). -/
def operandsOf (cw : Word) : Operands where
  ax := axisOfBit (axField cw)
  s := sbField cw
  h := hbField cw
  imm := immField cw

/-- One row of the opcode map (R53). -/
structure OpRow where
  mnemonic : String
  /-- The "match" column. -/
  value : Word
  /-- The "mask" column. -/
  mask : Word
  /-- The command of the row, from the operands. -/
  build : Operands → Instr

/-- The row selects the word: `(cw & mask) = match` (R52). -/
def OpRow.selects (r : OpRow) (cw : Word) : Bool := cw &&& r.mask == r.value

/-- The rows of the per-axis commands (R53). -/
def axisRows : List OpRow :=
  [ ⟨"AXADD", 0x10000000, 0xFFFE0000, fun o => .axadd o.ax o.imm⟩,
    ⟨"AXNEXT", 0x11000000, 0xFFFEFFFF, fun o => .axnext o.ax⟩,
    ⟨"AXRED", 0x12000000, 0xFFFCFFFF, fun o => .axred o.ax o.s⟩,
    ⟨"AXB0", 0x13000000, 0xFFFE0000, fun o => .axb0 o.ax o.imm⟩,
    ⟨"AXPOS", 0x14000000, 0xFFFEFFFF, fun o => .axpos o.ax⟩,
    ⟨"AXPOS0", 0x15000000, 0xFFFEFFFF, fun o => .axpos0 o.ax⟩,
    ⟨"AXBLANK", 0x16000000, 0xFFFEFFFF, fun o => .axblank o.ax⟩,
    ⟨"AXLBLANK", 0x17000000, 0xFFFEFFFF, fun o => .axlblank o.ax⟩,
    ⟨"AXVIS", 0x18000000, 0xFFFEFFFF, fun o => .axvis o.ax⟩,
    ⟨"AXDISP", 0x19000000, 0xFFFEFFFF, fun o => .axdisp o.ax⟩,
    ⟨"AXSCR", 0x1A000000, 0xFFFEFFFF, fun o => .axscr o.ax⟩,
    ⟨"AXRDRED", 0x1B000000, 0xFFFEFFFF, fun o => .axrdred o.ax⟩ ]

/-- The rows of the two-axis commands (R53). -/
def rasterRows : List OpRow :=
  [ ⟨"MOVE", 0x20000000, 0xFFFF0000, fun o => .move o.imm⟩,
    ⟨"RED2", 0x21000000, 0xFFF9FFFF, fun o => .red2 o.s o.h⟩,
    ⟨"VISPOS", 0x22000000, 0xFFFEFFFF, fun o => .vispos o.ax⟩,
    ⟨"DISPPOS", 0x23000000, 0xFFFEFFFF, fun o => .disppos o.ax⟩,
    ⟨"BLKCOL", 0x24000000, 0xFFFFFFFF, fun _ => .blkcol⟩,
    ⟨"CYCLE", 0x25000000, 0xFFFFFFFF, fun _ => .cycle⟩,
    ⟨"VIS2", 0x26000000, 0xFFFFFFFF, fun _ => .vis2⟩,
    ⟨"DISP2", 0x27000000, 0xFFFFFFFF, fun _ => .disp2⟩,
    ⟨"SCR2", 0x28000000, 0xFFFFFFFF, fun _ => .scr2⟩,
    ⟨"VBLANK", 0x29000000, 0xFFFFFFFF, fun _ => .vblank⟩,
    ⟨"LASTVBLANK", 0x2A000000, 0xFFFFFFFF, fun _ => .lastvblank⟩ ]

/-- The rows of the driver commands and of RESET (R53). -/
def driverRows : List OpRow :=
  [ ⟨"TICK", 0x30000000, 0xFFFFFFFF, fun _ => .tick⟩,
    ⟨"RUN", 0x31000000, 0xFFFFFFFF, fun _ => .run⟩,
    ⟨"LINECMP", 0x32000000, 0xFFFF0000, fun o => .linecmp o.imm⟩,
    ⟨"RDLINE", 0x33000000, 0xFFFFFFFF, fun _ => .rdline⟩,
    ⟨"RDSTAT", 0x34000000, 0xFFFFFFFF, fun _ => .rdstat⟩,
    ⟨"RESET", 0x01000000, 0xFFFFFFFF, fun _ => .reset⟩ ]

/-- OPMAP, the opcode map (R53). -/
def opMap : List OpRow := axisRows ++ rasterRows ++ driverRows

/-- The reason a word that no row selects is refused (R54). -/
def rejectReason (cw : Word) : Reject :=
  if (fieldUse (opcField cw)).isSome then .strayBits else .unassignedOpcode

/-- The decoder (R52): the command of the one row that selects the word, or the reason there is none.
What the tracker does with a refused word, and the check of `faulted`, are `Machine.acceptWord`. -/
def decode (cw : Word) : Except Reject Instr :=
  match opMap.find? (·.selects cw) with
  | some r => .ok (r.build (operandsOf cw))
  | none => .error (rejectReason cw)

/-- Four bytes of a host as one word, in the host's order (R38). -/
def wordOfBytes (o : ByteOrder) (b0 b1 b2 b3 : Byte) : Word :=
  match o with
  | .little => b3 ++ b2 ++ b1 ++ b0
  | .big => b0 ++ b1 ++ b2 ++ b3

/-- A word as the four bytes a host moves, in the host's order (R38). -/
def bytesOfWord (o : ByteOrder) (w : Word) : List Byte :=
  let bytes := [w.extractLsb' 0 8, w.extractLsb' 8 8, w.extractLsb' 16 8, w.extractLsb' 24 8]
  match o with
  | .little => bytes
  | .big => bytes.reverse

/-- The decoder on any bytes of a host (R38): the command of the first four and the bytes left, or the
reason there is none. "A decoder reads exactly one word per command" (R49). -/
def decodeBytes (o : ByteOrder) : List Byte → Except Reject (Instr × List Byte)
  | b0 :: b1 :: b2 :: b3 :: rest =>
    match decode (wordOfBytes o b0 b1 b2 b3) with
    | .ok i => .ok (i, rest)
    | .error r => .error r
  | _ => .error .truncated

/-- What the decoder reads from a word numbered as spec/opcode_table.json numbers it; `none` where it
refuses. A command is one 32-bit word on the port CMD, so no byte order enters. -/
def decodeTableWord (nbits w : Nat) : Option Instr :=
  match decode (BitVec.ofNat 32 (w % 2 ^ nbits)) with
  | .ok i => some i
  | .error _ => none

/-- The `AX` bit of an axis (R49). -/
def bitOfAxis : Axis → Bool
  | .V => false
  | .H => true

/-- A command word from its fields, most significant first, `RSV` 0 (R49). -/
def commandWord (opc : BitVec 8) (hb sb ax : Bool) (imm : Pos) : Word :=
  opc ++ (0#5 ++ (BitVec.ofBool hb ++ (BitVec.ofBool sb ++ (BitVec.ofBool ax ++ imm))))

/-- The opcode of a command (the "OPC" column of R53). -/
def opcodeOf : Instr → BitVec 8
  | .axadd _ _ => 0x10
  | .axnext _ => 0x11
  | .axred _ _ => 0x12
  | .axb0 _ _ => 0x13
  | .axpos _ => 0x14
  | .axpos0 _ => 0x15
  | .axblank _ => 0x16
  | .axlblank _ => 0x17
  | .axvis _ => 0x18
  | .axdisp _ => 0x19
  | .axscr _ => 0x1A
  | .axrdred _ => 0x1B
  | .move _ => 0x20
  | .red2 _ _ => 0x21
  | .vispos _ => 0x22
  | .disppos _ => 0x23
  | .blkcol => 0x24
  | .cycle => 0x25
  | .vis2 => 0x26
  | .disp2 => 0x27
  | .scr2 => 0x28
  | .vblank => 0x29
  | .lastvblank => 0x2A
  | .tick => 0x30
  | .run => 0x31
  | .linecmp _ => 0x32
  | .rdline => 0x33
  | .rdstat => 0x34
  | .reset => 0x01

/-- The operand fields of a command as its word holds them, every field its row does not list 0 (R53). -/
def operandFields : Instr → Operands
  | .axadd a i => ⟨a, false, false, i⟩
  | .axnext a => ⟨a, false, false, 0⟩
  | .axred a s => ⟨a, s, false, 0⟩
  | .axb0 a m => ⟨a, false, false, m⟩
  | .axpos a => ⟨a, false, false, 0⟩
  | .axpos0 a => ⟨a, false, false, 0⟩
  | .axblank a => ⟨a, false, false, 0⟩
  | .axlblank a => ⟨a, false, false, 0⟩
  | .axvis a => ⟨a, false, false, 0⟩
  | .axdisp a => ⟨a, false, false, 0⟩
  | .axscr a => ⟨a, false, false, 0⟩
  | .axrdred a => ⟨a, false, false, 0⟩
  | .move n => ⟨.V, false, false, n⟩
  | .red2 v h => ⟨.V, v, h, 0⟩
  | .vispos a => ⟨a, false, false, 0⟩
  | .disppos a => ⟨a, false, false, 0⟩
  | .blkcol => ⟨.V, false, false, 0⟩
  | .cycle => ⟨.V, false, false, 0⟩
  | .vis2 => ⟨.V, false, false, 0⟩
  | .disp2 => ⟨.V, false, false, 0⟩
  | .scr2 => ⟨.V, false, false, 0⟩
  | .vblank => ⟨.V, false, false, 0⟩
  | .lastvblank => ⟨.V, false, false, 0⟩
  | .tick => ⟨.V, false, false, 0⟩
  | .run => ⟨.V, false, false, 0⟩
  | .linecmp cmp => ⟨.V, false, false, cmp⟩
  | .rdline => ⟨.V, false, false, 0⟩
  | .rdstat => ⟨.V, false, false, 0⟩
  | .reset => ⟨.V, false, false, 0⟩

/-- The encoder (R49, R53, R55). -/
def encode (i : Instr) : Word :=
  let o := operandFields i
  commandWord (opcodeOf i) o.h o.s (bitOfAxis o.ax) o.imm

/-- The only word a faulted tracker accepts: "the exact RESET word" (R52, R99). -/
def resetWord : Word := 0x01000000

end Sys2Proof
end

