-- ==== Sys2Proof/Machine/Fetch.lean ====
section
/-! DEFINITION. Presenting a command (30_encoding.md R47, R48) and admitting its word (30_encoding.md R52, 60_exceptions.md R101). -/

namespace Sys2Proof.Machine

/-- The driver presents the next command: it leaves the queue, and `CPUCLK` shows the value it comes
with (R47, R48). -/
def present (s : State) (tx : Transaction) (rest : List Transaction) : State :=
  { s with cpuClk := tx.cpuClk, inputs := rest }

/-- What decode makes of a word: the command to run, or the fault to raise. A faulted tracker refuses
everything but the exact RESET word before it looks at the rows (R52, R99, R101). -/
def acceptWord (faulted : Bool) (cw : Word) : Except RCode Instr :=
  if faulted && cw != resetWord then .error .geometryInvalid
  else
    match decode cw with
    | .ok i => .ok i
    | .error _ => .error .illegalCommand

end Sys2Proof.Machine
end

