-- ==== Sys2Proof/Machine/Step.lean ====
section
/-! DEFINITION. One step: the next command the driver presents runs to completion (30_encoding.md R48, R52). -/

namespace Sys2Proof.Machine

/-- One step. With no command presented the tracker holds its state (60_exceptions.md R113). -/
def step (s : State) : Host.Outcome State Fault Refusal :=
  match s.inputs with
  | [] => .next s
  | tx :: rest =>
    match acceptWord s.trk.faulted tx.cmd with
    | .error c => .next (raiseFault (present s tx rest) c)
    | .ok i => exec i (present s tx rest)

/-- The driver presents the word as the next command, `CPUCLK` standing as it is (log entry 4). -/
def State.withFetchWord (s : State) (nbits w : Nat) : State :=
  { s with inputs := { cmd := BitVec.ofNat 32 (w % 2 ^ nbits), cpuClk := s.cpuClk } :: s.inputs }

end Sys2Proof.Machine
end

