-- ==== Sys2Proof/Machine/Assembler.lean ====
section
/-! DEFINITION. The assembler's lines (30_encoding.md rule R55) and the expansion of the pseudo-commands (rule R56). -/

namespace Sys2Proof.Machine

/-- The expansion of a pseudo-command (R56). -/
def expandPseudo : Pseudo → List Instr
  | .redv s => [.axred .V s]
  | .redh s => [.axred .H s]
  | .cols40 b => [.axred .H (!b)]
  | .rows25 b => [.axred .V (!b)]
  | .ticks k => List.replicate k .tick
  | .nop => [.rdstat]

/-- An axis operand (R55). -/
def axisOperand : Operand → Option Axis
  | .axis a => some a
  | _ => none

/-- A Boolean operand: `0`, `1`, `false`, `true` (R55). R55 does not say whether another numeral of value
0 or 1 (`01`, `0x1`) is a Boolean; it is one here. DESIGN CHOICE, log entry 15. -/
def boolOperand (o : Operand) : Option Bool :=
  if boolOperandOK o then
    match o with
    | .word b => some b
    | .num n => some (n == 1)
    | .axis _ => none
  else none

/-- An immediate operand, in `[0, 65535]` (R55). -/
def immOperand (o : Operand) : Option Pos :=
  match o with
  | .num n => if immOperandOK o then some (BitVec.ofNat 16 n) else none
  | _ => none

/-- The command a mnemonic with one axis operand names (R53, R55). -/
def axisCommand (m : String) (a : Axis) : Option (List Instr) :=
  match m with
  | "AXNEXT" => some [.axnext a]
  | "AXPOS" => some [.axpos a]
  | "AXPOS0" => some [.axpos0 a]
  | "AXBLANK" => some [.axblank a]
  | "AXLBLANK" => some [.axlblank a]
  | "AXVIS" => some [.axvis a]
  | "AXDISP" => some [.axdisp a]
  | "AXSCR" => some [.axscr a]
  | "AXRDRED" => some [.axrdred a]
  | "VISPOS" => some [.vispos a]
  | "DISPPOS" => some [.disppos a]
  | _ => none

/-- The command a mnemonic with no operand names (R53, R55, R56). -/
def plainCommand (m : String) : Option (List Instr) :=
  match m with
  | "BLKCOL" => some [.blkcol]
  | "CYCLE" => some [.cycle]
  | "VIS2" => some [.vis2]
  | "DISP2" => some [.disp2]
  | "SCR2" => some [.scr2]
  | "VBLANK" => some [.vblank]
  | "LASTVBLANK" => some [.lastvblank]
  | "TICK" => some [.tick]
  | "RUN" => some [.run]
  | "RDLINE" => some [.rdline]
  | "RDSTAT" => some [.rdstat]
  | "RESET" => some [.reset]
  | "NOP" => some (expandPseudo .nop)
  | _ => none

/-- The command a mnemonic with one number or Boolean operand names (R53, R55, R56). -/
def valueCommand (m : String) (o : Operand) : Option (List Instr) :=
  match m with
  | "MOVE" => (immOperand o).map fun n => [.move n]
  | "LINECMP" => (immOperand o).map fun c => [.linecmp c]
  | "REDV" => (boolOperand o).map fun b => expandPseudo (.redv b)
  | "REDH" => (boolOperand o).map fun b => expandPseudo (.redh b)
  | "COLS40" => (boolOperand o).map fun b => expandPseudo (.cols40 b)
  | "ROWS25" => (boolOperand o).map fun b => expandPseudo (.rows25 b)
  | "TICKS" =>
    match o with
    | .num k => some (expandPseudo (.ticks k))
    | _ => none
  | _ => none

/-- The command a mnemonic with two operands names (R53, R55). -/
def pairCommand (m : String) (o1 o2 : Operand) : Option (List Instr) :=
  match m with
  | "AXADD" => (axisOperand o1).bind fun a => (immOperand o2).map fun i => [.axadd a i]
  | "AXRED" => (axisOperand o1).bind fun a => (boolOperand o2).map fun s => [.axred a s]
  | "AXB0" => (axisOperand o1).bind fun a => (immOperand o2).map fun i => [.axb0 a i]
  | "RED2" => (boolOperand o1).bind fun v => (boolOperand o2).map fun h => [.red2 v h]
  | _ => none

/-- A source line as commands: one for a command, its expansion for a pseudo-command (R55, R56). -/
def assembleSource (src : Source) : Option (List Instr) :=
  match src.operands with
  | [] => plainCommand src.mnemonic
  | [.axis a] => axisCommand src.mnemonic a
  | [o] => valueCommand src.mnemonic o
  | [o1, o2] => pairCommand src.mnemonic o1 o2
  | _ => none

/-- A blank of the text. -/
def isBlankChar (c : Char) : Bool := c == ' ' || c == '\t'

/-- A text without the blanks at its two ends. -/
def trimBlanks (cs : List Char) : List Char :=
  ((cs.dropWhile isBlankChar).reverse.dropWhile isBlankChar).reverse

/-- A text cut at every occurrence of a separator. -/
def cutAt (sep : Char) : List Char → List (List Char)
  | [] => [[]]
  | c :: cs =>
    match cutAt sep cs with
    | [] => [[c]]
    | p :: ps => if c == sep then [] :: p :: ps else (c :: p) :: ps

/-- The value of a digit. R55 does not give the letter case of hexadecimal digits; both are read.
DESIGN CHOICE, log entry 15. -/
def digitValue (c : Char) : Option Nat :=
  let n := c.toNat
  if 48 ≤ n ∧ n ≤ 57 then some (n - 48)
  else if 97 ≤ n ∧ n ≤ 102 then some (n - 87)
  else if 65 ≤ n ∧ n ≤ 70 then some (n - 55)
  else none

/-- A run of digits in a base, read from the left onto `acc`. -/
def digitsFrom (base : Nat) : Nat → List Char → Option Nat
  | acc, [] => some acc
  | acc, c :: cs =>
    match digitValue c with
    | some d => if d < base then digitsFrom base (acc * base + d) cs else none
    | none => none

/-- A decimal or `0x`-prefixed hexadecimal number (R55), the prefix in lower case as R55 writes it;
leading zeros are read (DESIGN CHOICE, log entry 15). -/
def numberOf (cs : List Char) : Option Nat :=
  match cs with
  | [] => none
  | '0' :: 'x' :: d :: ds => digitsFrom 16 0 (d :: ds)
  | c :: ds => digitsFrom 10 0 (c :: ds)

/-- An operand of the text (R55). -/
def operandOf (cs : List Char) : Option Operand :=
  match cs with
  | ['V'] => some (.axis .V)
  | ['H'] => some (.axis .H)
  | ['t', 'r', 'u', 'e'] => some (.word true)
  | ['f', 'a', 'l', 's', 'e'] => some (.word false)
  | _ => (numberOf cs).map .num

/-- The operands after the mnemonic, separated by commas (R55). -/
def operandList (cs : List Char) : Option (List Operand) :=
  match trimBlanks cs with
  | [] => some []
  | ds => (cutAt ',' ds).mapM fun p => operandOf (trimBlanks p)

/-- One line of the assembler: `MNEMONIC [operand {, operand}]` with `;` starting a comment (R55); an
empty line gives no command. -/
def assembleLine (line : List Char) : Option (List Instr) :=
  let code := trimBlanks (line.takeWhile (· != ';'))
  match code with
  | [] => some []
  | _ =>
    let m := code.takeWhile (fun c => !isBlankChar c)
    (operandList (code.drop m.length)).bind fun ops =>
      assembleSource { mnemonic := String.ofList m, operands := ops }

end Sys2Proof.Machine
end

