-- ==== Sys2Proof/Safety.lean ====
section
/-! DEFINITION. What holds of a sound state, what a safe step is, and what a driver owes the tracker (70_reset_and_hazards.md rules R117 to R123). -/

namespace Sys2Proof.Machine

/-- An axis position is legal: `0 <= p0 < max` (10_state.md R14). -/
abbrev InRange (g : AxisGeometry) (x : AxisState) : Prop := x.p0.toNat < g.max.toNat

/-- The invariant of the machine, kept by every step from every state that has it:
`faulted` is exactly `¬GeomOK(G)` (R27); with a valid geometry both positions are legal (R14); with an
invalid one the record is the one RESET leaves, for nothing moves it (R99); before the first RUN the
record's `lastCPU` and `lineReg` are those of RESET (R24, R25); and a fault's response leaves
`RESP = 0`, `err` set and no event (R51, R97). -/
abbrev Inv (s : State) : Prop :=
  s.trk.faulted = !geomOK s.geom ∧
  (geomOK s.geom = true → InRange s.geom.v s.trk.v ∧ InRange s.geom.h s.trk.h) ∧
  (geomOK s.geom = false → s.trk = resetTracker s.geom) ∧
  (s.trk.run = .idle → s.trk.lastCPU = 0 ∧ s.trk.lineReg = (resetTracker s.geom).lineReg) ∧
  (s.rcode ≠ .ok → s.resp = 0 ∧ s.evt = [] ∧ s.trk.err = true)

/-- A sound state of a tracker that is not faulted: the condition under which a command has its effect. -/
abbrev Ready (s : State) : Prop := Inv s ∧ s.trk.faulted = false

/-- A step is safe when it leaves a state whose response code is OK. -/
def SafeStep (s s' : State) : Prop := step s = .next s' ∧ s'.rcode = .ok

/-- The number of frame-complete notifications among events (R89). -/
def frameReadyCount (ev : List Emission) : Nat :=
  ev.countP fun e => match e.event with
    | .frameReady _ => true
    | _ => false

/-- The phase of a chip cycle that emits an event, P1 to P6 (R86). -/
def phaseOf : Event → Nat
  | .lineStart _ _ => 1
  | .cycleStart _ _ _ _ => 2
  | .drawWindow _ => 3
  | .irqEval => 4
  | .advance _ _ => 5
  | .frameReady _ => 6

/-- What a reader of the register bank may assume after a RUN: the written-back line is the live
line (R91); it can fail after a TICK, MOVE or AXADD outside a RUN (R119). -/
abbrev LineLevel (s : State) : Prop := s.lineRegPort = s.linePort

/-- The commands a driver issues before the tracker's rules give the chip's behaviour (R117): RESET,
RED2 when the register bank's reset state is not 25 rows and 40 columns, and the baseline RUN. -/
def bootCommands (rows24 cols38 : Bool) : List Instr :=
  [.reset] ++ (if rows24 || cols38 then [.red2 rows24 cols38] else []) ++ [.run]

/-- The commands that move the beam outside the loop: they write neither `newLine` nor `vblankSeen` and
emit nothing, so a driver that mixes them with TICK can skip a line's step or a frame's edge (R123). -/
def bypassesLoop : Instr → Bool
  | .axadd _ _ => true
  | .axnext _ => true
  | .axred _ _ => false
  | .axb0 _ _ => false
  | .axpos _ => false
  | .axpos0 _ => false
  | .axblank _ => false
  | .axlblank _ => false
  | .axvis _ => false
  | .axdisp _ => false
  | .axscr _ => false
  | .axrdred _ => false
  | .move _ => true
  | .red2 _ _ => false
  | .vispos _ => false
  | .disppos _ => false
  | .blkcol => false
  | .cycle => false
  | .vis2 => false
  | .disp2 => false
  | .scr2 => false
  | .vblank => false
  | .lastvblank => false
  | .tick => false
  | .run => false
  | .linecmp _ => false
  | .rdline => false
  | .rdstat => false
  | .reset => false

/-- The commands that only answer, the queries of R40. -/
def isQuery : Instr → Bool
  | .axadd _ _ => false
  | .axnext _ => false
  | .axred _ _ => false
  | .axb0 _ _ => true
  | .axpos _ => true
  | .axpos0 _ => true
  | .axblank _ => true
  | .axlblank _ => true
  | .axvis _ => true
  | .axdisp _ => true
  | .axscr _ => true
  | .axrdred _ => true
  | .move _ => false
  | .red2 _ _ => false
  | .vispos _ => true
  | .disppos _ => true
  | .blkcol => true
  | .cycle => true
  | .vis2 => true
  | .disp2 => true
  | .scr2 => true
  | .vblank => true
  | .lastvblank => true
  | .tick => false
  | .run => false
  | .linecmp _ => true
  | .rdline => true
  | .rdstat => true
  | .reset => false

end Sys2Proof.Machine
end

