-- ==== Sys2Proof/Certificates/Slice0/Obligations.lean ====
section
/-! DEFINITION. The statements for the provers, and the vocabulary they are written in: the rules' own formulas in plain arithmetic, apart from the model's operations. Every statement holds for every geometry (the field `geom`); none rests on the geometry of `State.reset` unless its docstring says so. `evt := []` says that a command emits no event: only a TICK emits (42_cycle_driver.md R88); that EVT shows the last command's events is the model's form of R47 (log entry 6), and `inputs` is the model's form of the command port (log entry 3). -/

namespace Sys2Proof.Claims

open Sys2Proof.Machine

/-- `toBase0_a(m)` as R16 writes it. -/
def base0 (g : AxisGeometry) (m : Pos) : Int :=
  ((m.toNat : Int) - (g.first.toNat : Int)) % (g.max.toNat : Int)

/-- The absolute position of the base-0 position `n` as R17 writes it. -/
def absolute (g : AxisGeometry) (n : Nat) : Nat := (g.first.toNat + n) % g.max.toNat

/-- The beam position of an axis as a number. -/
def beam (s : State) (a : Axis) : Nat := (s.trk.axis a).p0.toNat

/-- The state after a command that only answers `r`: nothing else changes. -/
def answered (s : State) (r : Word) : State := { s with resp := r, rcode := .ok, evt := [] }

/-- The state after `raise Fault(c)` (R97). -/
def faulting (s : State) (c : RCode) : State :=
  { s with trk := { s.trk with err := true }, resp := 0, rcode := c, evt := [] }

/-- The state with the next command presented (R48). -/
def presented (s : State) (tx : Transaction) (rest : List Transaction) : State :=
  { s with cpuClk := tx.cpuClk, inputs := rest }

/-- The record with axis `a` at base-0 position `n`, nothing else changed. -/
def placed (t : Tracker) (a : Axis) (n : Nat) : Tracker :=
  match a with
  | .V => { t with v := { p0 := BitVec.ofNat 16 n, reduced := t.v.reduced } }
  | .H => { t with h := { p0 := BitVec.ofNat 16 n, reduced := t.h.reduced } }

/-- A Boolean as a number, `true` is 1 (R8). -/
def num (b : Bool) : Nat := if b then 1 else 0

/-- A Boolean as a response (R51). -/
def asResp (b : Bool) : Word := BitVec.ofNat 32 (num b)

/-- A command word from its fields, most significant first, `RSV` 0 (R49). -/
def fieldsWord (opc : BitVec 8) (hb sb ax : BitVec 1) (imm : Pos) : Word :=
  opc ++ (0#5 ++ (hb ++ (sb ++ (ax ++ imm))))

/-- The bit of an axis: 0 is V, 1 is H (R49). -/
def axBit : Axis → BitVec 1
  | .V => 0
  | .H => 1

/-- The bit of a Boolean. -/
def boolBit (b : Bool) : BitVec 1 := if b then 1 else 0

/-- The "Exceptions" line of a command's rule: GEOMETRY_INVALID when faulted; ILLEGAL_COMMAND for a
word of its opcode with a 1 in `unused` (RSV and the fields its row does not list), on a tracker that
is not faulted. -/
def FaultsAsStated (i : Instr) (opc : BitVec 8) (unused : Word) : Prop :=
  (∀ s : State, s.trk.faulted = true → exec i s = .next (faulting s .geometryInvalid)) ∧
  (∀ (s : State) (tx : Transaction) (rest : List Transaction), s.inputs = tx :: rest →
    s.trk.faulted = false → tx.cmd.extractLsb' 24 8 = opc → tx.cmd &&& unused ≠ 0 →
    step s = .next (faulting (presented s tx rest) .illegalCommand))

/-- The visible test of R58 at base-0 position `n`. -/
def visibleAt (g : AxisGeometry) (n : Nat) : Bool :=
  decide (base0 g g.firstVis ≤ (n : Int) ∧ (n : Int) ≤ base0 g g.lastVis)

/-- The display test of R58 at base-0 position `n`. -/
def displayAt (g : AxisGeometry) (n : Nat) : Bool :=
  decide (base0 g g.firstDisp ≤ (n : Int) ∧ (n : Int) ≤ base0 g g.lastDisp)

/-- The screen test of R58 with the boundaries of R20, at base-0 position `n`. -/
def screenAt (g : AxisGeometry) (reduced : Bool) (n : Nat) : Bool :=
  decide (base0 g g.firstDisp + (if reduced then (g.r1.toNat : Int) else 0) ≤ (n : Int) ∧
    (n : Int) ≤ base0 g g.lastDisp - (if reduced then (g.r2.toNat : Int) else 0))

/-- The last-blank test of R58 at base-0 position `n`. -/
def lastBlankAt (g : AxisGeometry) (n : Nat) : Bool := decide (base0 g g.lastVis < (n : Int))

/-- The blank test of R58 at base-0 position `n`. -/
def blankAt (g : AxisGeometry) (n : Nat) : Bool :=
  decide ((n : Int) < base0 g g.firstVis ∨ base0 g g.lastVis < (n : Int))

/-- The beam is in the visible zone of both axes (R73). -/
def beamVisible (s : State) : Bool := visibleAt s.geom.v (beam s .V) && visibleAt s.geom.h (beam s .H)

/-- The beam is in the display zone of both axes (R73). -/
def beamDisplay (s : State) : Bool := displayAt s.geom.v (beam s .V) && displayAt s.geom.h (beam s .H)

/-- The beam is in the screen zone of both axes (R73). -/
def beamScreen (s : State) : Bool :=
  screenAt s.geom.v s.trk.v.reduced (beam s .V) && screenAt s.geom.h s.trk.h.reduced (beam s .H)

/-- The `DrawWindow` event of R87 at the beam. -/
def drawWindowAt (s : State) : DrawWindow where
  x := (beam s .H : Int) - base0 s.geom.h s.geom.h.firstVis
  y := (beam s .V : Int) - base0 s.geom.v s.geom.v.firstVis
  blk := ((beam s .H : Int) - base0 s.geom.h s.geom.h.firstVis) / 8 * 8
  dx := (beam s .H : Int) - base0 s.geom.h s.geom.h.firstDisp
  dy := (beam s .V : Int) - base0 s.geom.v s.geom.v.firstDisp
  disp := beamDisplay s
  scr := beamScreen s
  scrV := screenAt s.geom.v s.trk.v.reduced (beam s .V)
  scrH := screenAt s.geom.h s.trk.h.reduced (beam s .H)

/-- Phase P5 wraps the line: the horizontal advance by `PPC` reaches `max` (R57, R88). -/
def tickWraps (s : State) : Bool := decide (s.geom.h.max.toNat ≤ beam s .H + s.geom.ppc.toNat)

/-- Phase P5 wraps the frame. -/
def tickWrapsFrame (s : State) : Bool := tickWraps s && decide (s.geom.v.max.toNat ≤ beam s .V + 1)

/-- The vertical position phase P5 leaves. -/
def tickLine (s : State) : Nat :=
  if tickWraps s then (beam s .V + 1) % s.geom.v.max.toNat else beam s .V

/-- The frame event fires in phase P6 (R89). -/
def tickFires (s : State) : Bool := lastBlankAt s.geom.v (tickLine s) && !s.trk.vblankSeen

/-- The events of a TICK, each with what LINE and LINEREG show at its emission (R47, R86 to R89). -/
def tickEvents (s : State) : List Emission :=
  let before : Pos := BitVec.ofNat 16 (absolute s.geom.v (beam s .V))
  let after : Pos := BitVec.ofNat 16 (absolute s.geom.v (tickLine s))
  (if s.trk.newLine then [⟨.lineStart before s.trk.v.p0, before, s.trk.lineReg⟩] else []) ++
  [⟨.cycleStart before s.trk.v.p0 s.trk.h.p0 (beam s .H / s.geom.ppc.toNat), before, s.trk.lineReg⟩] ++
  (if beamVisible s then [⟨.drawWindow (drawWindowAt s), before, s.trk.lineReg⟩] else []) ++
  [⟨.irqEval, before, s.trk.lineReg⟩] ++
  [⟨.advance (tickWraps s) (tickWrapsFrame s), after, s.trk.lineReg⟩] ++
  (if tickFires s then [⟨.frameReady after, after, s.trk.lineReg⟩] else [])

/-- `n` TICKs in a row: the state after them and their events in order. -/
def afterTicks : Nat → State → State × List Emission
  | 0, s => (s, [])
  | n + 1, s =>
    match exec .tick s with
    | .next t => ((afterTicks n t).1, t.evt ++ (afterTicks n t).2)
    | .fault _ => (s, [])
    | .refused _ => (s, [])

/-- `n` AXNEXTs of one axis in a row. -/
def afterNexts (a : Axis) : Nat → State → State
  | 0, s => s
  | n + 1, s =>
    match exec (.axnext a) s with
    | .next t => afterNexts a n t
    | .fault _ => s
    | .refused _ => s

/-- The commands of a list in a row, `CPUCLK` standing. -/
def afterCommands : List Instr → State → State
  | [], s => s
  | i :: is, s =>
    match exec i s with
    | .next t => afterCommands is t
    | .fault _ => s
    | .refused _ => s

/-- The events without what the output ports show. -/
def eventsOf (ev : List Emission) : List Event := ev.map (·.event)

/-- A word of the opcode has a 1 in `RSV` or in a field the row does not list (R54). -/
def strayBitSet (u : FieldUse) (cw : Word) : Prop :=
  cw.extractLsb' 19 5 ≠ 0 ∨ (u.hb = false ∧ cw.extractLsb' 18 1 ≠ 0) ∨
  (u.sb = false ∧ cw.extractLsb' 17 1 ≠ 0) ∨ (u.ax = false ∧ cw.extractLsb' 16 1 ≠ 0) ∨
  (u.imm = false ∧ cw.extractLsb' 0 16 ≠ 0)

/-- The unassigned opcodes, as R54 lists them. -/
def unassigned (opc : BitVec 8) : Prop :=
  opc = 0x00 ∨ (0x02 ≤ opc ∧ opc ≤ 0x0F) ∨ (0x1C ≤ opc ∧ opc ≤ 0x1F) ∨ (0x2B ≤ opc ∧ opc ≤ 0x2F) ∨
  0x35 ≤ opc

end Sys2Proof.Claims

open Sys2Proof Sys2Proof.Machine Sys2Proof.Claims

/-! ### Encoding -/

/-- A few words of the encoding vectors decode to the commands they stand for (R53, R55). -/
def Obligations.SampleWordsDecode : Prop :=
  decode 0x01000000 = .ok .reset ∧ decode 0x10010008 = .ok (.axadd .H 8) ∧
  decode 0x12020000 = .ok (.axred .V true) ∧ decode 0x20000001 = .ok (.move 1) ∧
  decode 0x21020000 = .ok (.red2 true false) ∧ decode 0x21040000 = .ok (.red2 false true) ∧
  decode 0x30000000 = .ok .tick ∧ decode 0x32000030 = .ok (.linecmp 0x30)

/-- Decoding the word of any command gives it back (R49, R50, R53). -/
def Obligations.DecodeOfEncodeIsTheCommand : Prop := ∀ i : Instr, decode (encode i) = .ok i

/-- A word that decodes is the word of the command it decodes to: each command has one word (R49, R53). -/
def Obligations.EncodeOfDecodedIsTheWord : Prop :=
  ∀ (cw : Word) (i : Instr), decode cw = .ok i → encode i = cw

/-- "masks cover OPC, so at most one row matches" (R52). -/
def Obligations.AtMostOneRowMatches : Prop :=
  ∀ r1 ∈ opMap, ∀ r2 ∈ opMap, ∀ cw : Word, cw &&& r1.mask = r1.value → cw &&& r2.mask = r2.value →
    r1.mnemonic = r2.mnemonic ∧ r1.value = r2.value ∧ r1.mask = r2.mask

/-- R54: the unassigned opcodes are exactly those listed; a word is refused exactly when its opcode is
unassigned or it has a 1 in RSV or in a field its row does not list; an illegal word raises
ILLEGAL_COMMAND and changes no state but `err`. -/
def Obligations.IllegalWordsAreExactlyThoseListed : Prop :=
  (∀ opc : BitVec 8, fieldUse opc = none ↔ unassigned opc) ∧
  (∀ cw : Word, (∀ i, decode cw ≠ .ok i) ↔
    (unassigned (cw.extractLsb' 24 8) ∨ ∃ u, fieldUse (cw.extractLsb' 24 8) = some u ∧ strayBitSet u cw)) ∧
  (∀ (s : State) (tx : Transaction) (rest : List Transaction), s.inputs = tx :: rest →
    s.trk.faulted = false → (∀ i, decode tx.cmd ≠ .ok i) →
    step s = .next (faulting (presented s tx rest) .illegalCommand))

/-- The word of a command is `OPC << 24 | HB << 18 | SB << 17 | AX << 16 | IMM` (R55). -/
def Obligations.CommandWordIsTheShiftedFields : Prop :=
  ∀ i : Instr, (encode i).toNat =
    (opcodeOf i).toNat <<< 24 ||| num (operandFields i).h <<< 18 ||| num (operandFields i).s <<< 17 |||
      (axBit (operandFields i).ax).toNat <<< 16 ||| (operandFields i).imm.toNat

/-- The four bytes of a word in a host's order are the word again, in either order (R38). -/
def Obligations.WordOfItsBytesIsTheWord : Prop :=
  ∀ (o : ByteOrder) (w : Word) (rest : List Byte), ∃ b0 b1 b2 b3,
    bytesOfWord o w = [b0, b1, b2, b3] ∧ wordOfBytes o b0 b1 b2 b3 = w ∧
    ∀ i, decode w = .ok i → decodeBytes o (bytesOfWord o w ++ rest) = .ok (i, rest)

/-- The expansions of the pseudo-commands (R56). -/
def Obligations.PseudoCommandsExpandAsListed : Prop :=
  (∀ s, expandPseudo (.redv s) = [.axred .V s]) ∧ (∀ s, expandPseudo (.redh s) = [.axred .H s]) ∧
  (∀ b, expandPseudo (.cols40 b) = [.axred .H (!b)]) ∧ (∀ b, expandPseudo (.rows25 b) = [.axred .V (!b)]) ∧
  (∀ k, expandPseudo (.ticks k) = List.replicate k .tick) ∧ expandPseudo .nop = [.rdstat]

/-! ### The step -/

/-- When the word presented decodes to a command, the step is that command at the state with the
command presented. -/
def Obligations.StepRunsThePresentedCommand : Prop :=
  ∀ (s : State) (tx : Transaction) (rest : List Transaction) (i : Instr), s.inputs = tx :: rest →
    decode tx.cmd = .ok i → step s = exec i (presented s tx rest)

/-- The decode procedure of R52. -/
def Obligations.StepFollowsTheDecodeProcedure : Prop :=
  ∀ (s : State) (tx : Transaction) (rest : List Transaction), s.inputs = tx :: rest →
    (s.trk.faulted = true ∧ tx.cmd ≠ 0x01000000 →
      step s = .next (faulting (presented s tx rest) .geometryInvalid)) ∧
    (¬(s.trk.faulted = true ∧ tx.cmd ≠ 0x01000000) → (∀ r ∈ opMap, tx.cmd &&& r.mask ≠ r.value) →
      step s = .next (faulting (presented s tx rest) .illegalCommand)) ∧
    (¬(s.trk.faulted = true ∧ tx.cmd ≠ 0x01000000) → ∀ r ∈ opMap, tx.cmd &&& r.mask = r.value →
      step s = exec (r.build (operandsOf tx.cmd)) (presented s tx rest))

/-- The priority of faults (R101): a faulted tracker reports GEOMETRY_INVALID whatever the word; then a
word no row selects reports ILLEGAL_COMMAND, a malformed MOVE of any operand among them; then a MOVE
that oversteps reports OVERSTEP. -/
def Obligations.FaultPriorityIsGeometryThenDecodeThenOperand : Prop :=
  ∀ (s : State) (tx : Transaction) (rest : List Transaction), s.inputs = tx :: rest →
    (s.trk.faulted = true → tx.cmd ≠ 0x01000000 →
      step s = .next (faulting (presented s tx rest) .geometryInvalid)) ∧
    (s.trk.faulted = false → (∀ i, decode tx.cmd ≠ .ok i) →
      step s = .next (faulting (presented s tx rest) .illegalCommand)) ∧
    (s.trk.faulted = false → tx.cmd.extractLsb' 24 8 = 0x20 → tx.cmd.extractLsb' 16 8 ≠ 0 →
      step s = .next (faulting (presented s tx rest) .illegalCommand)) ∧
    (s.trk.faulted = false → ∀ n : Pos, tx.cmd = fieldsWord 0x20 0 0 0 n →
      s.geom.h.max.toNat < n.toNat * s.geom.ppc.toNat →
      step s = .next (faulting (presented s tx rest) .overstep))

/-- With no command presented the tracker holds its state (R113). -/
def Obligations.TrackerHoldsItsStateBetweenCommands : Prop :=
  ∀ s : State, s.inputs = [] → step s = .next s

/-- Every step of every state answers a next state: no command stops the machine (R97, R105). -/
def Obligations.EveryStepAnswersANextState : Prop := ∀ s : State, ∃ t, step s = .next t

/-! ### Per-axis commands -/

/-- AXADD (R57, R59): encoding, exceptions, the new position and flag, and nothing else written.
No event is emitted (`evt`: log entry 6). -/
def Obligations.AxaddAdvancesOneAxis : Prop :=
  ∀ (a : Axis) (i : Pos),
    decode (fieldsWord 0x10 0 0 (axBit a) i) = .ok (.axadd a i) ∧
    FaultsAsStated (.axadd a i) 0x10 0x00FE0000 ∧
    ∀ s : State, Ready s → exec (.axadd a i) s = .next
      { s with
        trk := placed s.trk a ((beam s a + i.toNat) % (s.geom.axis a).max.toNat)
        resp := asResp (decide ((s.geom.axis a).max.toNat ≤ beam s a + i.toNat))
        rcode := .ok
        evt := [] }

/-- AXNEXT (R60).
No event is emitted (`evt`: log entry 6). -/
def Obligations.AxnextAdvancesByOne : Prop :=
  ∀ a : Axis,
    decode (fieldsWord 0x11 0 0 (axBit a) 0) = .ok (.axnext a) ∧
    FaultsAsStated (.axnext a) 0x11 0x00FEFFFF ∧
    ∀ s : State, Ready s → exec (.axnext a) s = .next
      { s with
        trk := placed s.trk a (if beam s a + 1 = (s.geom.axis a).max.toNat then 0 else beam s a + 1)
        resp := asResp (decide (beam s a + 1 = (s.geom.axis a).max.toNat))
        rcode := .ok
        evt := [] }

/-- AXRED (R61): the flag of one axis, the beam not moved; a repeat changes nothing; and the next AXSCR
sees the screen boundaries that follow from the flag (R20).
No event is emitted (`evt`: log entry 6). -/
def Obligations.AxredSetsTheReduction : Prop :=
  ∀ (a : Axis) (b : Bool),
    decode (fieldsWord 0x12 0 (boolBit b) (axBit a) 0) = .ok (.axred a b) ∧
    FaultsAsStated (.axred a b) 0x12 0x00FCFFFF ∧
    (∀ s : State, s.trk.faulted = false → exec (.axred a b) s = .next
      { s with
        trk := (match a with
          | .V => { s.trk with v := { p0 := s.trk.v.p0, reduced := b } }
          | .H => { s.trk with h := { p0 := s.trk.h.p0, reduced := b } })
        resp := 0
        rcode := .ok
        evt := [] }) ∧
    (∀ s : State, s.trk.faulted = false → (s.trk.axis a).reduced = b →
      exec (.axred a b) s = .next (answered s 0)) ∧
    (∀ s t : State, Ready s → exec (.axred a b) s = .next t →
      exec (.axscr a) t = .next (answered t (asResp (screenAt (s.geom.axis a) b (beam s a)))))

/-- AXB0 (R62): the base-0 form of `m`, no state change; `first` gives 0 and `last` gives `max - 1`.
No event is emitted (`evt`: log entry 6). -/
def Obligations.Axb0AnswersTheBase0Form : Prop :=
  ∀ (a : Axis) (m : Pos),
    decode (fieldsWord 0x13 0 0 (axBit a) m) = .ok (.axb0 a m) ∧
    FaultsAsStated (.axb0 a m) 0x13 0x00FE0000 ∧
    ∀ s : State, Ready s →
      exec (.axb0 a m) s = .next (answered s (BitVec.ofInt 32 (base0 (s.geom.axis a) m))) ∧
      (m = (s.geom.axis a).first → base0 (s.geom.axis a) m = 0) ∧
      (m = (s.geom.axis a).last → base0 (s.geom.axis a) m = ((s.geom.axis a).max.toNat : Int) - 1)

/-- AXPOS (R63): the absolute position, no state change.
No event is emitted (`evt`: log entry 6). -/
def Obligations.AxposAnswersTheAbsolutePosition : Prop :=
  ∀ a : Axis,
    decode (fieldsWord 0x14 0 0 (axBit a) 0) = .ok (.axpos a) ∧
    FaultsAsStated (.axpos a) 0x14 0x00FEFFFF ∧
    ∀ s : State, Ready s → exec (.axpos a) s = .next
      (answered s (BitVec.ofNat 32 (absolute (s.geom.axis a) (beam s a))))

/-- AXPOS0 (R64): the base-0 position, always below `max`, no state change.
No event is emitted (`evt`: log entry 6). -/
def Obligations.Axpos0AnswersTheBase0Position : Prop :=
  ∀ a : Axis,
    decode (fieldsWord 0x15 0 0 (axBit a) 0) = .ok (.axpos0 a) ∧
    FaultsAsStated (.axpos0 a) 0x15 0x00FEFFFF ∧
    ∀ s : State, Ready s →
      exec (.axpos0 a) s = .next (answered s (BitVec.ofNat 32 (beam s a))) ∧
      beam s a < (s.geom.axis a).max.toNat

/-- AXBLANK and AXLBLANK (R65, R66).
No event is emitted (`evt`: log entry 6). -/
def Obligations.BlankQueriesAnswerTheBlankZones : Prop :=
  ∀ a : Axis,
    decode (fieldsWord 0x16 0 0 (axBit a) 0) = .ok (.axblank a) ∧
    decode (fieldsWord 0x17 0 0 (axBit a) 0) = .ok (.axlblank a) ∧
    FaultsAsStated (.axblank a) 0x16 0x00FEFFFF ∧ FaultsAsStated (.axlblank a) 0x17 0x00FEFFFF ∧
    ∀ s : State, Ready s →
      exec (.axblank a) s = .next (answered s (asResp (blankAt (s.geom.axis a) (beam s a)))) ∧
      exec (.axlblank a) s = .next (answered s (asResp (lastBlankAt (s.geom.axis a) (beam s a))))

/-- AXVIS and AXDISP (R67, R68): AXVIS is the negation of AXBLANK, AXDISP does not depend on the
reduction.
No event is emitted (`evt`: log entry 6). -/
def Obligations.VisibleAndDisplayQueriesAnswerTheirZones : Prop :=
  ∀ a : Axis,
    decode (fieldsWord 0x18 0 0 (axBit a) 0) = .ok (.axvis a) ∧
    decode (fieldsWord 0x19 0 0 (axBit a) 0) = .ok (.axdisp a) ∧
    FaultsAsStated (.axvis a) 0x18 0x00FEFFFF ∧ FaultsAsStated (.axdisp a) 0x19 0x00FEFFFF ∧
    ∀ s : State, Ready s →
      exec (.axvis a) s = .next (answered s (asResp (visibleAt (s.geom.axis a) (beam s a)))) ∧
      visibleAt (s.geom.axis a) (beam s a) = !blankAt (s.geom.axis a) (beam s a) ∧
      exec (.axdisp a) s = .next (answered s (asResp (displayAt (s.geom.axis a) (beam s a))))

/-- AXSCR (R69): the screen zone of R20; equal to AXDISP when the axis is not reduced.
No event is emitted (`evt`: log entry 6). -/
def Obligations.ScreenQueryAnswersTheScreenZone : Prop :=
  ∀ a : Axis,
    decode (fieldsWord 0x1A 0 0 (axBit a) 0) = .ok (.axscr a) ∧
    FaultsAsStated (.axscr a) 0x1A 0x00FEFFFF ∧
    ∀ s : State, Ready s →
      exec (.axscr a) s = .next
        (answered s (asResp (screenAt (s.geom.axis a) (s.trk.axis a).reduced (beam s a)))) ∧
      ((s.trk.axis a).reduced = false → exec (.axscr a) s = exec (.axdisp a) s)

/-- AXRDRED (R70): the flag; after a RESET with a valid geometry it reads 0 on both axes.
No event is emitted (`evt`: log entry 6). -/
def Obligations.AxrdredAnswersTheReduction : Prop :=
  ∀ a : Axis,
    decode (fieldsWord 0x1B 0 0 (axBit a) 0) = .ok (.axrdred a) ∧
    FaultsAsStated (.axrdred a) 0x1B 0x00FEFFFF ∧
    (∀ s : State, s.trk.faulted = false →
      exec (.axrdred a) s = .next (answered s (asResp (s.trk.axis a).reduced))) ∧
    (∀ s t : State, geomOK s.geom = true → exec .reset s = .next t →
      exec (.axrdred a) t = .next (answered t 0))

/-- Raster wraparound (R71): of `max` AXNEXTs in a row exactly one answers 1, the one that takes the
position from `max - 1` to 0; the others answer 0; afterwards the record is what it was before. -/
def Obligations.NextsOfAWholeTurnWrapExactlyOnce : Prop :=
  ∀ (a : Axis) (s : State), Ready s →
    (∀ k < (s.geom.axis a).max.toNat,
      (afterNexts a (k + 1) s).resp = asResp (decide (beam (afterNexts a k s) a + 1 = (s.geom.axis a).max.toNat))) ∧
    ((List.range (s.geom.axis a).max.toNat).map fun k => (afterNexts a (k + 1) s).resp).count 1 = 1 ∧
    (afterNexts a (s.geom.axis a).max.toNat s).trk = s.trk

/-- Reduction idempotence (R72): AXRED a,1 twice leaves the record AXRED a,1 once leaves; AXRED a,0
after it restores the record of an axis that was not reduced; and the screen zone a beam at any legal
position sees through AXSCR is the trimmed one after the first and the untrimmed one after the last. -/
def Obligations.ReductionIsIdempotentAndReversible : Prop :=
  ∀ (a : Axis) (s t1 t2 t3 : State), Ready s → (s.trk.axis a).reduced = false →
    exec (.axred a true) s = .next t1 → exec (.axred a true) t1 = .next t2 →
    exec (.axred a false) t2 = .next t3 →
    t2.trk = t1.trk ∧ t3.trk = s.trk ∧
    ∀ p < (s.geom.axis a).max.toNat,
      exec (.axscr a) { t2 with trk := placed t2.trk a p } =
        .next (answered { t2 with trk := placed t2.trk a p } (asResp (screenAt (s.geom.axis a) true p))) ∧
      exec (.axscr a) { t3 with trk := placed t3.trk a p } =
        .next (answered { t3 with trk := placed t3.trk a p } (asResp (screenAt (s.geom.axis a) false p)))

/-- The consequences R58 draws: the screen zone lies in the display zone, that in the visible zone;
blank is the negation of visible; the last blank zone is blank. -/
def Obligations.ZonesAreNested : Prop :=
  ∀ (s : State) (a : Axis), Ready s →
    inBlank (s.geom.axis a) (s.trk.axis a) = !inVisible (s.geom.axis a) (s.trk.axis a) ∧
    (inScreen (s.geom.axis a) (s.trk.axis a) = true → inDisplay (s.geom.axis a) (s.trk.axis a) = true) ∧
    (inDisplay (s.geom.axis a) (s.trk.axis a) = true → inVisible (s.geom.axis a) (s.trk.axis a) = true) ∧
    (inLastBlank (s.geom.axis a) (s.trk.axis a) = true → inBlank (s.geom.axis a) (s.trk.axis a) = true)

/-- The absolute position is the inverse of `toBase0` on `[0, max)`, `first_0` is 0, and the output LINE
is the vertical one (R16, R17). -/
def Obligations.AbsolutePositionInvertsBase0 : Prop :=
  (∀ (g : AxisGeometry) (x : AxisState), g.first.toNat < g.max.toNat → x.p0.toNat < g.max.toNat →
    (posOf g x).toNat = absolute g x.p0.toNat ∧ toBase0 g (posOf g x) = x.p0 ∧ toBase0 g g.first = 0 ∧
    ∀ m : Pos, ((toBase0 g m).toNat : Int) = base0 g m ∧
      (m.toNat < g.max.toNat → posOf g { x with p0 := toBase0 g m } = m)) ∧
  ∀ s : State, Ready s → s.linePort.toNat = absolute s.geom.v (beam s .V)

/-- R18: `last_0 = max - 1` exactly when the last position is the one just before the first, and a
geometry that breaks it faults the tracker at RESET. -/
def Obligations.LastPositionPrecedesTheFirst : Prop :=
  (∀ g : AxisGeometry, g.first.toNat < g.max.toNat → g.last.toNat < g.max.toNat →
    ((toBase0 g g.last).toNat = g.max.toNat - 1 ↔
      g.last.toNat = (g.first.toNat + g.max.toNat - 1) % g.max.toNat)) ∧
  (∀ (s : State) (a : Axis), base0 (s.geom.axis a) (s.geom.axis a).last ≠ ((s.geom.axis a).max.toNat : Int) - 1 →
    ∃ t, exec .reset s = .next t ∧ t.rcode = .geometryInvalid ∧ t.trk.faulted = true)

/-! ### Two-axis commands -/

/-- MOVE (R74, R75, R100): encoding, exceptions with OVERSTEP, the cascade, and nothing else written; no
other command answers OVERSTEP.
No event is emitted (`evt`: log entry 6). -/
def Obligations.MoveAdvancesTheBeamWithTheCascade : Prop :=
  (∀ (i : Instr) (s t : State), exec i s = .next t → t.rcode = .overstep →
    ∃ n : Pos, i = .move n ∧ s.geom.h.max.toNat < n.toNat * s.geom.ppc.toNat) ∧
  ∀ n : Pos,
    decode (fieldsWord 0x20 0 0 0 n) = .ok (.move n) ∧
    FaultsAsStated (.move n) 0x20 0x00FF0000 ∧
    (∀ s : State, s.trk.faulted = false → s.geom.h.max.toNat < n.toNat * s.geom.ppc.toNat →
      exec (.move n) s = .next (faulting s .overstep)) ∧
    (∀ s : State, Ready s → n.toNat * s.geom.ppc.toNat ≤ s.geom.h.max.toNat →
      beam s .H + n.toNat * s.geom.ppc.toNat < s.geom.h.max.toNat →
      exec (.move n) s = .next
        { s with
          trk := placed s.trk .H (beam s .H + n.toNat * s.geom.ppc.toNat)
          resp := 0
          rcode := .ok
          evt := [] }) ∧
    (∀ s : State, Ready s → n.toNat * s.geom.ppc.toNat ≤ s.geom.h.max.toNat →
      s.geom.h.max.toNat ≤ beam s .H + n.toNat * s.geom.ppc.toNat →
      exec (.move n) s = .next
        { s with
          trk := placed (placed s.trk .H (beam s .H + n.toNat * s.geom.ppc.toNat - s.geom.h.max.toNat)) .V
            ((beam s .V + 1) % s.geom.v.max.toNat)
          resp := 1
          rcode := .ok
          evt := [] })

/-- The corner of R75: a MOVE of one whole line always wraps, leaves H where it is and advances V.
No event is emitted (`evt`: log entry 6). -/
def Obligations.MoveOfOneLineReturnsToTheColumn : Prop :=
  ∀ (n : Pos) (s : State), Ready s → n.toNat * s.geom.ppc.toNat = s.geom.h.max.toNat →
    exec (.move n) s = .next
      { s with
        trk := placed s.trk .V ((beam s .V + 1) % s.geom.v.max.toNat)
        resp := 1
        rcode := .ok
        evt := [] }

/-- RED2 (R76): both flags, nothing else; the same record as AXRED of each axis in either order.
No event is emitted (`evt`: log entry 6). -/
def Obligations.Red2SetsBothReductions : Prop :=
  ∀ v h : Bool,
    decode (fieldsWord 0x21 (boolBit h) (boolBit v) 0 0) = .ok (.red2 v h) ∧
    FaultsAsStated (.red2 v h) 0x21 0x00F9FFFF ∧
    ∀ s : State, s.trk.faulted = false →
      exec (.red2 v h) s = .next
        { s with
          trk := { s.trk with v := { p0 := s.trk.v.p0, reduced := v }, h := { p0 := s.trk.h.p0, reduced := h } }
          resp := 0
          rcode := .ok
          evt := [] } ∧
      exec (.red2 v h) s = .next (afterCommands [.axred .V v, .axred .H h] s) ∧
      exec (.red2 v h) s = .next (afterCommands [.axred .H h, .axred .V v] s)

/-- VISPOS and DISPPOS (R77, R78): signed, unclipped, from the fixed origins.
No event is emitted (`evt`: log entry 6). -/
def Obligations.CoordinateQueriesAnswerSignedOffsets : Prop :=
  ∀ a : Axis,
    decode (fieldsWord 0x22 0 0 (axBit a) 0) = .ok (.vispos a) ∧
    decode (fieldsWord 0x23 0 0 (axBit a) 0) = .ok (.disppos a) ∧
    FaultsAsStated (.vispos a) 0x22 0x00FEFFFF ∧ FaultsAsStated (.disppos a) 0x23 0x00FEFFFF ∧
    ∀ s : State, Ready s →
      exec (.vispos a) s = .next (answered s
        (BitVec.ofInt 32 ((beam s a : Int) - base0 (s.geom.axis a) (s.geom.axis a).firstVis))) ∧
      exec (.disppos a) s = .next (answered s
        (BitVec.ofInt 32 ((beam s a : Int) - base0 (s.geom.axis a) (s.geom.axis a).firstDisp)))

/-- BLKCOL (R79): `(cv div 8) * 8`, rounding toward minus infinity.
No event is emitted (`evt`: log entry 6). -/
def Obligations.BlkcolAnswersTheFlooredColumn : Prop :=
  decode 0x24000000 = .ok .blkcol ∧ FaultsAsStated .blkcol 0x24 0x00FFFFFF ∧
  ∀ s : State, Ready s →
    ∃ q : Int, exec .blkcol s = .next (answered s (BitVec.ofInt 32 (8 * q))) ∧
      8 * q ≤ (beam s .H : Int) - base0 s.geom.h s.geom.h.firstVis ∧
      (beam s .H : Int) - base0 s.geom.h s.geom.h.firstVis < 8 * q + 8

/-- CYCLE (R80): `H.p0 div PPC`, in `[0, H.max / PPC)`; SUB001's cycle `c` is CYCLE `= c - CYCLE_BASE`,
for every value of that OPEN parameter.
No event is emitted (`evt`: log entry 6). -/
def Obligations.CycleAnswersTheChipCycle : Prop :=
  decode 0x25000000 = .ok .cycle ∧ FaultsAsStated .cycle 0x25 0x00FFFFFF ∧
  ∀ s : State, Ready s →
    exec .cycle s = .next (answered s (BitVec.ofNat 32 (beam s .H / s.geom.ppc.toNat))) ∧
    beam s .H / s.geom.ppc.toNat < s.geom.h.max.toNat / s.geom.ppc.toNat ∧
    ((beam s .H / s.geom.ppc.toNat : Nat) : Int) = sourceCycle s.geom s.trk - Config.cycleBase

/-- VIS2, DISP2 and SCR2 (R81, R82, R83): the AND of the two axes.
No event is emitted (`evt`: log entry 6). -/
def Obligations.ZoneQueriesOfTheBeamAreConjunctions : Prop :=
  decode 0x26000000 = .ok .vis2 ∧ decode 0x27000000 = .ok .disp2 ∧ decode 0x28000000 = .ok .scr2 ∧
  FaultsAsStated .vis2 0x26 0x00FFFFFF ∧ FaultsAsStated .disp2 0x27 0x00FFFFFF ∧
  FaultsAsStated .scr2 0x28 0x00FFFFFF ∧
  ∀ s : State, Ready s →
    exec .vis2 s = .next (answered s (asResp (beamVisible s))) ∧
    exec .disp2 s = .next (answered s (asResp (beamDisplay s))) ∧
    exec .scr2 s = .next (answered s (asResp (beamScreen s)))

/-- VBLANK and LASTVBLANK (R84, R85): the vertical axis alone.
No event is emitted (`evt`: log entry 6). -/
def Obligations.VblankQueriesReadTheVerticalAxis : Prop :=
  decode 0x29000000 = .ok .vblank ∧ decode 0x2A000000 = .ok .lastvblank ∧
  FaultsAsStated .vblank 0x29 0x00FFFFFF ∧ FaultsAsStated .lastvblank 0x2A 0x00FFFFFF ∧
  ∀ s : State, Ready s →
    exec .vblank s = .next (answered s (asResp (blankAt s.geom.v (beam s .V)))) ∧
    exec .lastvblank s = .next (answered s (asResp (lastBlankAt s.geom.v (beam s .V))))

/-! ### The cycle driver -/

/-- TICK (R87, R88, R89): the beam, the latch, the guard, the response bits, the events with their
fields in phase order, and nothing else written. What LINE and LINEREG show at each event is the
model's form of R47 (log entry 6). -/
def Obligations.TickRunsOneChipCycle : Prop :=
  decode 0x30000000 = .ok .tick ∧ FaultsAsStated .tick 0x30 0x00FFFFFF ∧
  ∀ s : State, Ready s → exec .tick s = .next
    { s with
      trk := { s.trk with
        v := { p0 := BitVec.ofNat 16 (tickLine s), reduced := s.trk.v.reduced }
        h := { p0 := BitVec.ofNat 16 ((beam s .H + s.geom.ppc.toNat) % s.geom.h.max.toNat),
               reduced := s.trk.h.reduced }
        newLine := tickWraps s
        vblankSeen := lastBlankAt s.geom.v (tickLine s) }
      resp := BitVec.ofNat 32 (num s.trk.newLine + 2 * num (beamVisible s) + 4 * num (tickWraps s) +
        8 * num (tickWrapsFrame s) + 16 * num (tickFires s))
      rcode := .ok
      evt := tickEvents s }

/-- "P5 is exactly `moveCycles(1)` plus the latch and the frame flag" (R88): a TICK leaves the beam where
MOVE 1 leaves it, and latches MOVE 1's answer. -/
def Obligations.TickMovesTheBeamAsMoveOne : Prop :=
  ∀ s : State, Ready s → ∃ t m, exec .tick s = .next t ∧ exec (.move 1) s = .next m ∧
    m.rcode = .ok ∧ t.trk.v = m.trk.v ∧ t.trk.h = m.trk.h ∧ m.resp = asResp t.trk.newLine

/-- The events of one TICK come in the phase order of R86, at most one of each kind (R87, R104). -/
def Obligations.TickEventsComeInPhaseOrder : Prop :=
  ∀ s t : State, s.trk.faulted = false → exec .tick s = .next t →
    ((eventsOf t.evt).map phaseOf).Pairwise (· < ·) ∧
    [2, 4, 5].Sublist ((eventsOf t.evt).map phaseOf) ∧
    (1 ∈ (eventsOf t.evt).map phaseOf ↔ s.trk.newLine = true)

/-- RUN (R90, R91): the first RUN records the CPU count and runs nothing; a later one runs
`((c - lastCPU) mod 2^32) * CPC` TICKs with their events in order, keeps the count sampled at its
start, and writes the live line back, so that LINEREG equals LINE after it. -/
def Obligations.RunFollowsTheCpuCount : Prop :=
  decode 0x31000000 = .ok .run ∧ FaultsAsStated .run 0x31 0x00FFFFFF ∧
  (∀ s : State, s.trk.faulted = false → s.trk.run = .idle → exec .run s = .next
    { s with
      trk := { s.trk with lastCPU := s.cpuClk, run := .loop }
      resp := 0
      rcode := .ok
      evt := [] }) ∧
  (∀ s t : State, s.trk.faulted = false → s.trk.run = .loop → exec .run s = .next t →
    t.lineRegPort = t.linePort) ∧
  (∀ s : State, Ready s → s.trk.run = .loop →
    let n := (((s.cpuClk.toNat : Int) - (s.trk.lastCPU.toNat : Int)) % 2 ^ 32).toNat * s.geom.cpc.toNat
    let r := afterTicks n { s with trk := { s.trk with lastCPU := s.cpuClk } }
    exec .run s = .next
      { s with
        trk := { r.1.trk with lineReg := BitVec.ofNat 16 (absolute s.geom.v r.1.trk.v.p0.toNat) }
        resp := BitVec.ofNat 32 n
        rcode := .ok
        evt := r.2 })

/-- The stall interplay (R92): a RUN at `c1` and then a RUN at `c2` run together exactly the chip cycles
of one RUN at `c2`, so cycles added to the CPU counter after the first sample are run by the second.
The records agree and the events follow one another. -/
def Obligations.RunsAddUpAcrossASampledCount : Prop :=
  ∀ (s s1 s2 s12 : State) (c1 c2 : Clk), Ready s → s.trk.run = .loop →
    (c1 - s.trk.lastCPU).toNat + (c2 - c1).toNat = (c2 - s.trk.lastCPU).toNat →
    exec .run { s with cpuClk := c1 } = .next s1 → exec .run { s1 with cpuClk := c2 } = .next s2 →
    exec .run { s with cpuClk := c2 } = .next s12 →
    s2.trk = s12.trk ∧ eventsOf (s1.evt ++ s2.evt) = eventsOf s12.evt ∧
    s2.resp = BitVec.ofNat 32 ((c2 - c1).toNat * s.geom.cpc.toNat)

/-- One frame of chip cycles, for every valid geometry: from the start of a frame, a RUN of exactly
`V.max * (H.max / PPC)` chip cycles returns the beam, the latch and the guard to where they were, and
fires the frame event once, or never when the last blank zone is empty (R88 to R91). -/
def Obligations.OneFrameReturnsToItsStart : Prop :=
  ∀ s : State, Ready s → s.trk.run = .loop → beam s .V = 0 → beam s .H = 0 → s.trk.newLine = true →
    s.trk.vblankSeen = false →
    (s.cpuClk - s.trk.lastCPU).toNat * s.geom.cpc.toNat =
      s.geom.v.max.toNat * (s.geom.h.max.toNat / s.geom.ppc.toNat) →
    ∃ t, exec .run s = .next t ∧
      t.trk = { s.trk with lastCPU := s.cpuClk, lineReg := s.geom.v.first } ∧
      t.linePort = s.geom.v.first ∧
      frameReadyCount t.evt =
        if base0 s.geom.v s.geom.v.lastVis + 1 < (s.geom.v.max.toNat : Int) then 1 else 0

/-- SUB001's end-to-end scenario (R96), for every value of the OPEN fields of the VIC-II PAL geometry;
cycles added to the CPU count during the second RUN are run by the RUN that follows. -/
def Obligations.PalFrameFiresOnceAndEndsAtLineZero : Prop :=
  ∀ (o : PalOpen) (s : State) (c0 : Clk), s.geom = Config.vicIIPal o → geomOK s.geom = true →
    o.vLastVis.toNat < 311 →
    ∃ s1 s2 s3, exec .reset s = .next s1 ∧ exec .run { s1 with cpuClk := c0 } = .next s2 ∧
      exec .run { s2 with cpuClk := c0 + 312 * 63 } = .next s3 ∧
      s2.resp = 0 ∧ s2.evt = [] ∧ s3.rcode = .ok ∧ s3.resp = 19656 ∧ frameReadyCount s3.evt = 1 ∧
      s3.linePort = 0 ∧ s3.lineRegPort = 0 ∧
      ∀ stall : Clk, ∃ s4, exec .run { s3 with cpuClk := c0 + 312 * 63 + stall } = .next s4 ∧ s4.resp = stall

/-- LINECMP (R93): the live absolute line; a compare value of `V.max` or more never matches.
No event is emitted (`evt`: log entry 6). -/
def Obligations.LinecmpComparesTheLiveLine : Prop :=
  ∀ cmp : Pos,
    decode (fieldsWord 0x32 0 0 0 cmp) = .ok (.linecmp cmp) ∧
    FaultsAsStated (.linecmp cmp) 0x32 0x00FF0000 ∧
    ∀ s : State, Ready s →
      exec (.linecmp cmp) s = .next
        (answered s (asResp (decide (absolute s.geom.v (beam s .V) = cmp.toNat)))) ∧
      (s.geom.v.max.toNat ≤ cmp.toNat → exec (.linecmp cmp) s = .next (answered s 0))

/-- RDLINE (R94): the line written back; after a TICK outside a RUN it is what it was, not the live line.
No event is emitted (`evt`: log entry 6). -/
def Obligations.RdlineAnswersTheWrittenBackLine : Prop :=
  decode 0x33000000 = .ok .rdline ∧ FaultsAsStated .rdline 0x33 0x00FFFFFF ∧
  (∀ s : State, s.trk.faulted = false →
    exec .rdline s = .next (answered s (BitVec.ofNat 32 s.trk.lineReg.toNat))) ∧
  (∀ s t : State, s.trk.faulted = false → exec .tick s = .next t →
    exec .rdline t = .next (answered t (BitVec.ofNat 32 s.trk.lineReg.toNat)))

/-- RDSTAT (R31, R95): bit 0 NL up to bit 6 HRED, bits 31:7 zero; reading clears nothing.
No event is emitted (`evt`: log entry 6). -/
def Obligations.RdstatAnswersTheStatusWord : Prop :=
  decode 0x34000000 = .ok .rdstat ∧ FaultsAsStated .rdstat 0x34 0x00FFFFFF ∧
  ∀ s : State, s.trk.faulted = false →
    exec .rdstat s = .next (answered s (BitVec.ofNat 32
      (num s.trk.newLine + 2 * num s.trk.vblankSeen + 4 * num (decide (s.trk.run = .loop)) +
        8 * num s.trk.err + 16 * num s.trk.faulted + 32 * num s.trk.v.reduced + 64 * num s.trk.h.reduced)))

/-! ### Reset and the geometry -/

/-- RESET (R115): accepted in every state, faulted or not; every field at its reset value; no event
(`evt`: log entry 6). With `V.max = 0`, where R8 defines no `mod`, `lineReg` is a free value (log entry 8). -/
def Obligations.ResetRebuildsTheTracker : Prop :=
  decode 0x01000000 = .ok .reset ∧
  (∀ (s : State) (tx : Transaction) (rest : List Transaction), s.inputs = tx :: rest →
    tx.cmd.extractLsb' 24 8 = 0x01 → tx.cmd ≠ 0x01000000 →
    step s = .next (faulting (presented s tx rest) (if s.trk.faulted then .geometryInvalid else .illegalCommand))) ∧
  (∀ (s : State) (tx : Transaction) (rest : List Transaction), s.inputs = tx :: rest →
    tx.cmd = 0x01000000 → step s = exec .reset (presented s tx rest)) ∧
  (∀ s : State, geomOK s.geom = true → exec .reset s = .next
    { s with
      trk := { v := { p0 := 0, reduced := false }, h := { p0 := 0, reduced := false }, newLine := true,
               vblankSeen := false, run := .idle, lastCPU := 0, lineReg := s.geom.v.first, err := false,
               faulted := false }
      resp := 0
      rcode := .ok
      evt := [] }) ∧
  (∀ s : State, geomOK s.geom = false → ∃ line : Pos,
    (0 < s.geom.v.max.toNat → line.toNat = s.geom.v.first.toNat % s.geom.v.max.toNat) ∧
    exec .reset s = .next
      { s with
        trk := { v := { p0 := 0, reduced := false }, h := { p0 := 0, reduced := false }, newLine := true,
                 vblankSeen := false, run := .idle, lastCPU := 0, lineReg := line, err := true,
                 faulted := true }
        resp := 0
        rcode := .geometryInvalid
        evt := [] })

/-- Power-on leaves what RESET leaves, with `RCODE` and `RESP` as RESET would set them (R116). -/
def Obligations.PowerOnEqualsReset : Prop :=
  ∀ s : State, exec .reset s =
    .next { State.powerOn s.geom with cpuClk := s.cpuClk, inputs := s.inputs }

/-- `GeomOK(G)` is the conjunction of g1 to g7 (R114). -/
def Obligations.GeometryIsValidExactlyUnderG1ToG7 : Prop :=
  ∀ g : Geometry, geomOK g = true ↔
    (∀ a : Axis,
      1 ≤ (g.axis a).max.toNat ∧ (g.axis a).max.toNat ≤ 65535 ∧
      (g.axis a).first.toNat < (g.axis a).max.toNat ∧ (g.axis a).firstVis.toNat < (g.axis a).max.toNat ∧
      (g.axis a).firstDisp.toNat < (g.axis a).max.toNat ∧ (g.axis a).lastDisp.toNat < (g.axis a).max.toNat ∧
      (g.axis a).lastVis.toNat < (g.axis a).max.toNat ∧ (g.axis a).last.toNat < (g.axis a).max.toNat ∧
      base0 (g.axis a) (g.axis a).last = ((g.axis a).max.toNat : Int) - 1 ∧
      base0 (g.axis a) (g.axis a).firstVis ≤ base0 (g.axis a) (g.axis a).firstDisp ∧
      base0 (g.axis a) (g.axis a).firstDisp ≤ base0 (g.axis a) (g.axis a).lastDisp ∧
      base0 (g.axis a) (g.axis a).lastDisp ≤ base0 (g.axis a) (g.axis a).lastVis ∧
      ((g.axis a).r1.toNat : Int) + ((g.axis a).r2.toNat : Int) ≤
        base0 (g.axis a) (g.axis a).lastDisp - base0 (g.axis a) (g.axis a).firstDisp) ∧
    1 ≤ g.ppc.toNat ∧ g.ppc.toNat ≤ g.h.max.toNat ∧ g.h.max.toNat % g.ppc.toNat = 0 ∧ 1 ≤ g.cpc.toNat

/-- The boot order of R117 with a valid geometry, from any state: the reductions are those of the
register bank, the loop is entered with the CPU's count, and the beam has not moved. -/
def Obligations.BootLeavesTheLoopEntered : Prop :=
  ∀ (s : State) (rows24 cols38 : Bool), geomOK s.geom = true →
    let t := afterCommands (bootCommands rows24 cols38) s
    t.rcode = .ok ∧ t.trk = { resetTracker s.geom with
      v := { p0 := 0, reduced := rows24 }, h := { p0 := 0, reduced := cols38 },
      run := .loop, lastCPU := s.cpuClk }

/-! ### Whole-machine rules -/

/-- The invariant holds at power-on with every geometry, and so at `State.reset`. -/
def Obligations.SoundnessHoldsAtPowerOn : Prop := (∀ g : Geometry, Inv (State.powerOn g)) ∧ Inv State.reset

/-- Every step keeps the invariant: legal positions, `faulted` exactly `¬GeomOK(G)`, a faulted tracker
as RESET leaves it, `lastCPU` and `lineReg` as RESET leaves them before the first RUN, and a fault's response
with RESP 0, `err` set and no event. -/
def Obligations.EveryStepKeepsSoundness : Prop :=
  ∀ s t : State, Inv s → step s = .next t → Inv t

/-- No step changes the geometry (R12). -/
def Obligations.NoStepChangesTheGeometry : Prop := ∀ s t : State, step s = .next t → t.geom = s.geom

/-- The "Written by" column of R28: a command that changes a field is one of those the table lists. -/
def Obligations.OnlyTheListedCommandsWriteEachField : Prop :=
  ∀ (i : Instr) (s t : State), exec i s = .next t →
    (t.trk.v.p0 ≠ s.trk.v.p0 → (∃ n, i = .axadd .V n) ∨ i = .axnext .V ∨ (∃ n, i = .move n) ∨ i = .tick ∨
      i = .run ∨ i = .reset) ∧
    (t.trk.h.p0 ≠ s.trk.h.p0 → (∃ n, i = .axadd .H n) ∨ i = .axnext .H ∨ (∃ n, i = .move n) ∨ i = .tick ∨
      i = .run ∨ i = .reset) ∧
    (t.trk.v.reduced ≠ s.trk.v.reduced → (∃ b, i = .axred .V b) ∨ (∃ v h, i = .red2 v h) ∨ i = .reset) ∧
    (t.trk.h.reduced ≠ s.trk.h.reduced → (∃ b, i = .axred .H b) ∨ (∃ v h, i = .red2 v h) ∨ i = .reset) ∧
    (t.trk.newLine ≠ s.trk.newLine → i = .tick ∨ i = .run ∨ i = .reset) ∧
    (t.trk.vblankSeen ≠ s.trk.vblankSeen → i = .tick ∨ i = .run ∨ i = .reset) ∧
    (t.trk.run ≠ s.trk.run → i = .run ∨ i = .reset) ∧
    (t.trk.lastCPU ≠ s.trk.lastCPU → i = .run ∨ i = .reset) ∧
    (t.trk.lineReg ≠ s.trk.lineReg → i = .run ∨ i = .reset) ∧
    (t.trk.err ≠ s.trk.err → t.rcode ≠ .ok ∨ i = .reset) ∧
    (t.trk.faulted ≠ s.trk.faulted → i = .reset)

/-- A faulted tracker stays faulted: no step, RESET included, changes its record (R99). -/
def Obligations.FaultedTrackerIsStuck : Prop :=
  ∀ s t : State, Inv s → s.trk.faulted = true → step s = .next t →
    t.trk = s.trk ∧ (s.inputs ≠ [] → t.rcode = .geometryInvalid ∧ t.resp = 0 ∧ t.evt = [])

/-- `err` is sticky (R26): every command that ends in a fault sets it, and only RESET clears it. -/
def Obligations.ErrorFlagIsStickyUntilReset : Prop :=
  ∀ (s t : State) (tx : Transaction) (rest : List Transaction), s.inputs = tx :: rest →
    step s = .next t →
    (t.rcode ≠ .ok → t.trk.err = true) ∧
    (s.trk.err = true → tx.cmd ≠ 0x01000000 → t.trk.err = true) ∧
    (tx.cmd = 0x01000000 → geomOK s.geom = true → t.trk.err = false)

/-- Faults are precise (R97): after any command but RESET that ends in a fault the state is what it was
but for `err` and the response; and a fault comes from decode, from MOVE's operand check or from RESET
with an invalid geometry, and from nothing else. -/
def Obligations.FaultsArePrecise : Prop :=
  ∀ (s t : State) (tx : Transaction) (rest : List Transaction), s.inputs = tx :: rest →
    step s = .next t → t.rcode ≠ .ok →
    (tx.cmd ≠ 0x01000000 → t = faulting (presented s tx rest) t.rcode) ∧
    ((s.trk.faulted = true ∧ tx.cmd ≠ 0x01000000 ∧ t.rcode = .geometryInvalid) ∨
     ((∀ i, decode tx.cmd ≠ .ok i) ∧ t.rcode = .illegalCommand) ∨
     (∃ n : Pos, decode tx.cmd = .ok (.move n) ∧ s.geom.h.max.toNat < n.toNat * s.geom.ppc.toNat ∧
        t.rcode = .overstep) ∨
     (tx.cmd = 0x01000000 ∧ geomOK s.geom = false ∧ t.rcode = .geometryInvalid))

/-- Every query command is idempotent (R40): it leaves the record unchanged, and issuing it twice gives
the same response. -/
def Obligations.QueriesAreIdempotent : Prop :=
  ∀ (i : Instr) (s t : State), isQuery i = true → s.trk.faulted = false → exec i s = .next t →
    t.trk = s.trk ∧ t.inputs = s.inputs ∧ t.rcode = .ok ∧ t.evt = [] ∧ exec i t = .next t

/-- The commands that bypass the loop (R123) write neither latch and emit nothing; in particular a TICK
that ends in the last VBlank zone after them fires the frame event when the guard was down. -/
def Obligations.BypassCommandsLeaveTheLatches : Prop :=
  ∀ (i : Instr) (s t u : State), bypassesLoop i = true → Ready s → exec i s = .next t →
    t.trk.newLine = s.trk.newLine ∧ t.trk.vblankSeen = s.trk.vblankSeen ∧ t.evt = [] ∧
    (exec .tick t = .next u → lastBlankAt u.geom.v (beam u .V) = true → s.trk.vblankSeen = false →
      frameReadyCount u.evt = 1)
end

