-- ==== Sys2Proof/Laws/State.lean ====
section
/-! SUPPORT. One lemma per field per update of the state and of the tracker record, each true by definition. -/

namespace Sys2Proof.Machine

@[simp] theorem complete_geom (s : State) (t : Tracker) (r : Word) (ev : List Emission) : (complete s t r ev).geom = s.geom := rfl
@[simp] theorem complete_trk (s : State) (t : Tracker) (r : Word) (ev : List Emission) : (complete s t r ev).trk = t := rfl
@[simp] theorem complete_resp (s : State) (t : Tracker) (r : Word) (ev : List Emission) : (complete s t r ev).resp = r := rfl
@[simp] theorem complete_rcode (s : State) (t : Tracker) (r : Word) (ev : List Emission) : (complete s t r ev).rcode = .ok := rfl
@[simp] theorem complete_evt (s : State) (t : Tracker) (r : Word) (ev : List Emission) : (complete s t r ev).evt = ev := rfl
@[simp] theorem complete_cpuClk (s : State) (t : Tracker) (r : Word) (ev : List Emission) : (complete s t r ev).cpuClk = s.cpuClk := rfl
@[simp] theorem complete_inputs (s : State) (t : Tracker) (r : Word) (ev : List Emission) : (complete s t r ev).inputs = s.inputs := rfl

@[simp] theorem raiseFault_geom (s : State) (c : RCode) : (raiseFault s c).geom = s.geom := rfl
@[simp] theorem raiseFault_trk (s : State) (c : RCode) : (raiseFault s c).trk = { s.trk with err := true } := rfl
@[simp] theorem raiseFault_resp (s : State) (c : RCode) : (raiseFault s c).resp = 0 := rfl
@[simp] theorem raiseFault_rcode (s : State) (c : RCode) : (raiseFault s c).rcode = c := rfl
@[simp] theorem raiseFault_evt (s : State) (c : RCode) : (raiseFault s c).evt = [] := rfl
@[simp] theorem raiseFault_cpuClk (s : State) (c : RCode) : (raiseFault s c).cpuClk = s.cpuClk := rfl
@[simp] theorem raiseFault_inputs (s : State) (c : RCode) : (raiseFault s c).inputs = s.inputs := rfl

@[simp] theorem present_geom (s : State) (tx : Transaction) (rest : List Transaction) : (present s tx rest).geom = s.geom := rfl
@[simp] theorem present_trk (s : State) (tx : Transaction) (rest : List Transaction) : (present s tx rest).trk = s.trk := rfl
@[simp] theorem present_resp (s : State) (tx : Transaction) (rest : List Transaction) : (present s tx rest).resp = s.resp := rfl
@[simp] theorem present_rcode (s : State) (tx : Transaction) (rest : List Transaction) : (present s tx rest).rcode = s.rcode := rfl
@[simp] theorem present_evt (s : State) (tx : Transaction) (rest : List Transaction) : (present s tx rest).evt = s.evt := rfl
@[simp] theorem present_cpuClk (s : State) (tx : Transaction) (rest : List Transaction) : (present s tx rest).cpuClk = tx.cpuClk := rfl
@[simp] theorem present_inputs (s : State) (tx : Transaction) (rest : List Transaction) : (present s tx rest).inputs = rest := rfl

@[simp] theorem withFetchWord_geom (s : State) (nbits w : Nat) : (s.withFetchWord nbits w).geom = s.geom := rfl
@[simp] theorem withFetchWord_trk (s : State) (nbits w : Nat) : (s.withFetchWord nbits w).trk = s.trk := rfl
@[simp] theorem withFetchWord_resp (s : State) (nbits w : Nat) : (s.withFetchWord nbits w).resp = s.resp := rfl
@[simp] theorem withFetchWord_rcode (s : State) (nbits w : Nat) : (s.withFetchWord nbits w).rcode = s.rcode := rfl
@[simp] theorem withFetchWord_evt (s : State) (nbits w : Nat) : (s.withFetchWord nbits w).evt = s.evt := rfl
@[simp] theorem withFetchWord_cpuClk (s : State) (nbits w : Nat) : (s.withFetchWord nbits w).cpuClk = s.cpuClk := rfl
@[simp] theorem withFetchWord_inputs (s : State) (nbits w : Nat) : (s.withFetchWord nbits w).inputs = { cmd := BitVec.ofNat 32 (w % 2 ^ nbits), cpuClk := s.cpuClk } :: s.inputs := rfl

@[simp] theorem setP0_newLine (t : Tracker) (a : Axis) (p : Pos) : (t.setP0 a p).newLine = t.newLine := by
  cases a <;> rfl
@[simp] theorem setP0_vblankSeen (t : Tracker) (a : Axis) (p : Pos) : (t.setP0 a p).vblankSeen = t.vblankSeen := by
  cases a <;> rfl
@[simp] theorem setP0_run (t : Tracker) (a : Axis) (p : Pos) : (t.setP0 a p).run = t.run := by
  cases a <;> rfl
@[simp] theorem setP0_lastCPU (t : Tracker) (a : Axis) (p : Pos) : (t.setP0 a p).lastCPU = t.lastCPU := by
  cases a <;> rfl
@[simp] theorem setP0_lineReg (t : Tracker) (a : Axis) (p : Pos) : (t.setP0 a p).lineReg = t.lineReg := by
  cases a <;> rfl
@[simp] theorem setP0_err (t : Tracker) (a : Axis) (p : Pos) : (t.setP0 a p).err = t.err := by
  cases a <;> rfl
@[simp] theorem setP0_faulted (t : Tracker) (a : Axis) (p : Pos) : (t.setP0 a p).faulted = t.faulted := by
  cases a <;> rfl
@[simp] theorem setP0_V_v (t : Tracker) (p : Pos) : (t.setP0 .V p).v = { t.v with p0 := p } := rfl
@[simp] theorem setP0_V_h (t : Tracker) (p : Pos) : (t.setP0 .V p).h = t.h := rfl
@[simp] theorem setP0_H_h (t : Tracker) (p : Pos) : (t.setP0 .H p).h = { t.h with p0 := p } := rfl
@[simp] theorem setP0_H_v (t : Tracker) (p : Pos) : (t.setP0 .H p).v = t.v := rfl
@[simp] theorem setP0_axis_same (t : Tracker) (a : Axis) (p : Pos) : (t.setP0 a p).axis a = { t.axis a with p0 := p } := by
  cases a <;> rfl
theorem setP0_axis_other (t : Tracker) (a b : Axis) (p : Pos) (h : b ≠ a) : (t.setP0 a p).axis b = t.axis b := by
  cases a <;> cases b <;> first | rfl | exact absurd rfl h

@[simp] theorem setReduced_newLine (t : Tracker) (a : Axis) (b : Bool) : (t.setReduced a b).newLine = t.newLine := by
  cases a <;> rfl
@[simp] theorem setReduced_vblankSeen (t : Tracker) (a : Axis) (b : Bool) : (t.setReduced a b).vblankSeen = t.vblankSeen := by
  cases a <;> rfl
@[simp] theorem setReduced_run (t : Tracker) (a : Axis) (b : Bool) : (t.setReduced a b).run = t.run := by
  cases a <;> rfl
@[simp] theorem setReduced_lastCPU (t : Tracker) (a : Axis) (b : Bool) : (t.setReduced a b).lastCPU = t.lastCPU := by
  cases a <;> rfl
@[simp] theorem setReduced_lineReg (t : Tracker) (a : Axis) (b : Bool) : (t.setReduced a b).lineReg = t.lineReg := by
  cases a <;> rfl
@[simp] theorem setReduced_err (t : Tracker) (a : Axis) (b : Bool) : (t.setReduced a b).err = t.err := by
  cases a <;> rfl
@[simp] theorem setReduced_faulted (t : Tracker) (a : Axis) (b : Bool) : (t.setReduced a b).faulted = t.faulted := by
  cases a <;> rfl
@[simp] theorem setReduced_V_v (t : Tracker) (b : Bool) : (t.setReduced .V b).v = { t.v with reduced := b } := rfl
@[simp] theorem setReduced_V_h (t : Tracker) (b : Bool) : (t.setReduced .V b).h = t.h := rfl
@[simp] theorem setReduced_H_h (t : Tracker) (b : Bool) : (t.setReduced .H b).h = { t.h with reduced := b } := rfl
@[simp] theorem setReduced_H_v (t : Tracker) (b : Bool) : (t.setReduced .H b).v = t.v := rfl
@[simp] theorem setReduced_axis_same (t : Tracker) (a : Axis) (b : Bool) : (t.setReduced a b).axis a = { t.axis a with reduced := b } := by
  cases a <;> rfl
theorem setReduced_axis_other (t : Tracker) (a c : Axis) (b : Bool) (h : c ≠ a) : (t.setReduced a b).axis c = t.axis c := by
  cases a <;> cases c <;> first | rfl | exact absurd rfl h

@[simp] theorem tracker_axis_V (t : Tracker) : t.axis .V = t.v := rfl
@[simp] theorem geometry_axis_V (g : Geometry) : g.axis .V = g.v := rfl
@[simp] theorem tracker_axis_H (t : Tracker) : t.axis .H = t.h := rfl
@[simp] theorem geometry_axis_H (g : Geometry) : g.axis .H = g.h := rfl

@[simp] theorem resetTracker_v (g : Geometry) : (resetTracker g).v = { p0 := 0, reduced := false } := rfl
@[simp] theorem resetTracker_h (g : Geometry) : (resetTracker g).h = { p0 := 0, reduced := false } := rfl
@[simp] theorem resetTracker_newLine (g : Geometry) : (resetTracker g).newLine = true := rfl
@[simp] theorem resetTracker_vblankSeen (g : Geometry) : (resetTracker g).vblankSeen = false := rfl
@[simp] theorem resetTracker_run (g : Geometry) : (resetTracker g).run = .idle := rfl
@[simp] theorem resetTracker_lastCPU (g : Geometry) : (resetTracker g).lastCPU = 0 := rfl
@[simp] theorem resetTracker_err (g : Geometry) : (resetTracker g).err = !geomOK g := rfl
@[simp] theorem resetTracker_faulted (g : Geometry) : (resetTracker g).faulted = !geomOK g := rfl

@[simp] theorem powerOn_geom (g : Geometry) : (State.powerOn g).geom = g := rfl
@[simp] theorem powerOn_trk (g : Geometry) : (State.powerOn g).trk = resetTracker g := rfl
@[simp] theorem powerOn_resp (g : Geometry) : (State.powerOn g).resp = 0 := rfl
@[simp] theorem powerOn_rcode (g : Geometry) : (State.powerOn g).rcode = resetCode g := rfl
@[simp] theorem powerOn_evt (g : Geometry) : (State.powerOn g).evt = [] := rfl
@[simp] theorem powerOn_cpuClk (g : Geometry) : (State.powerOn g).cpuClk = 0 := rfl
@[simp] theorem powerOn_inputs (g : Geometry) : (State.powerOn g).inputs = [] := rfl

end Sys2Proof.Machine
end

