-- ==== Sys2Proof/Laws/Ops.lean ====
section
/-! SUPPORT. One lemma for each shared operation that says what it can do; the provers cite these instead of unfolding the operations. -/

namespace Sys2Proof.Machine

/-! ### `mod` and `div` -/

theorem modulo_toNat (x : Int) (m : Pos) (hm : 0 < m.toNat) :
    ((modulo x m).toNat : Int) = x % (m.toNat : Int) := by
  have h0 : m ≠ 0 := by rintro rfl; simp at hm
  have h1 := Int.emod_nonneg x (b := (m.toNat : Int)) (by omega)
  have h2 := Int.emod_lt_of_pos x (b := (m.toNat : Int)) (by omega)
  have h3 := m.isLt
  rw [modulo, if_neg h0, BitVec.toNat_ofInt]
  omega

theorem modulo_lt (x : Int) (m : Pos) (hm : 0 < m.toNat) : (modulo x m).toNat < m.toNat := by
  have h1 := modulo_toNat x m hm
  have h2 := Int.emod_lt_of_pos x (b := (m.toNat : Int)) (by omega)
  omega

theorem modulo_natCast_toNat (n : Nat) (m : Pos) (hm : 0 < m.toNat) :
    (modulo (n : Int) m).toNat = n % m.toNat := by
  have h := modulo_toNat n m hm
  exact_mod_cast h

theorem modulo_natCast (n : Nat) (m : Pos) (hm : 0 < m.toNat) :
    modulo (n : Int) m = BitVec.ofNat 16 (n % m.toNat) := by
  apply BitVec.eq_of_toNat_eq
  rw [modulo_natCast_toNat n m hm, BitVec.toNat_ofNat]
  exact (Nat.mod_eq_of_lt (lt_trans (Nat.mod_lt _ hm) m.isLt)).symm

theorem floorDiv_of_pos (x : Nat) (m : Pos) (hm : 0 < m.toNat) : floorDiv x m = x / m.toNat := by
  have h0 : m ≠ 0 := by rintro rfl; simp at hm
  rw [floorDiv, if_neg h0]

/-! ### The geometry invariants -/

theorem axisOK_max_pos {g : AxisGeometry} (h : axisOK g = true) : 0 < g.max.toNat := by
  simp only [axisOK, geomG1, Bool.and_eq_true, decide_eq_true_eq] at h
  omega

theorem axisOK_first_lt {g : AxisGeometry} (h : axisOK g = true) : g.first.toNat < g.max.toNat := by
  simp only [axisOK, geomG2, Bool.and_eq_true, decide_eq_true_eq] at h
  omega

/-- The order of the base-0 boundaries that g4 gives (R19). -/
theorem axisOK_zone_order {g : AxisGeometry} (h : axisOK g = true) :
    (firstVis0 g).toNat ≤ (firstDisp0 g).toNat ∧ (firstDisp0 g).toNat ≤ (lastDisp0 g).toNat ∧
      (lastDisp0 g).toNat ≤ (lastVis0 g).toNat ∧ (lastVis0 g).toNat < g.max.toNat := by
  have hm := modulo_lt ((g.lastVis.toNat : Int) - (g.first.toNat : Int)) g.max (axisOK_max_pos h)
  simp only [axisOK, geomG4, Bool.and_eq_true, decide_eq_true_eq] at h
  exact ⟨h.1.2.1, h.1.2.2.1, h.1.2.2.2, hm⟩

theorem axisOK_trim {g : AxisGeometry} (h : axisOK g = true) :
    (g.r1.toNat : Int) + (g.r2.toNat : Int) ≤ ((lastDisp0 g).toNat : Int) - ((firstDisp0 g).toNat : Int) := by
  simp only [axisOK, geomG5, Bool.and_eq_true, decide_eq_true_eq] at h
  exact h.2

theorem geomOK_iff (g : Geometry) :
    geomOK g = true ↔ axisOK g.v = true ∧ axisOK g.h = true ∧ geomG6 g = true ∧ geomG7 g = true := by
  simp [geomOK, and_assoc]

theorem geomOK_axis {g : Geometry} (h : geomOK g = true) (a : Axis) : axisOK (g.axis a) = true := by
  obtain ⟨hv, hh, -, -⟩ := (geomOK_iff g).1 h
  cases a
  · exact hv
  · exact hh

/-- What g6 and g7 give (R114). -/
theorem geomOK_chip {g : Geometry} (h : geomOK g = true) :
    1 ≤ g.ppc.toNat ∧ g.ppc.toNat ≤ g.h.max.toNat ∧ g.h.max.toNat % g.ppc.toNat = 0 ∧ 1 ≤ g.cpc.toNat := by
  obtain ⟨-, -, h6, h7⟩ := (geomOK_iff g).1 h
  simp only [geomG6, geomG7, decide_eq_true_eq] at h6 h7
  omega

/-! ### Sound states -/

theorem Ready_geomOK {s : State} (h : Ready s) : geomOK s.geom = true := by
  have h1 := h.1.1
  rw [h.2] at h1
  simpa using h1.symm

theorem Ready_inRange {s : State} (h : Ready s) (a : Axis) : InRange (s.geom.axis a) (s.trk.axis a) := by
  obtain ⟨hv, hh⟩ := h.1.2.1 (Ready_geomOK h)
  cases a
  · exact hv
  · exact hh

theorem Ready_max_pos {s : State} (h : Ready s) (a : Axis) : 0 < (s.geom.axis a).max.toNat :=
  axisOK_max_pos (geomOK_axis (Ready_geomOK h) a)

/-! ### Completing, refusing, answering -/

theorem unlessFaulted_of_ok {s s' : State} (h : s.trk.faulted = false) :
    unlessFaulted s s' = .next s' := by
  simp [unlessFaulted, h]

theorem unlessFaulted_of_faulted {s s' : State} (h : s.trk.faulted = true) :
    unlessFaulted s s' = .next (raiseFault s .geometryInvalid) := by
  simp [unlessFaulted, h]

/-- All `unlessFaulted` can do. -/
theorem unlessFaulted_cases {s s' t : State} (h : unlessFaulted s s' = .next t) :
    (s.trk.faulted = true ∧ t = raiseFault s .geometryInvalid) ∨ (s.trk.faulted = false ∧ t = s') := by
  cases hf : s.trk.faulted
  · rw [unlessFaulted_of_ok hf] at h
    exact .inr ⟨rfl, (Host.Outcome.next.inj h).symm⟩
  · rw [unlessFaulted_of_faulted hf] at h
    exact .inl ⟨rfl, (Host.Outcome.next.inj h).symm⟩

theorem query_of_ok {s : State} {r : Word} (h : s.trk.faulted = false) :
    query s r = .next { s with resp := r, rcode := .ok, evt := [] } :=
  unlessFaulted_of_ok h

/-! ### Positions -/

theorem toBase0_toNat {g : AxisGeometry} (m : Pos) (hm : 0 < g.max.toNat) :
    ((toBase0 g m).toNat : Int) = ((m.toNat : Int) - (g.first.toNat : Int)) % (g.max.toNat : Int) :=
  modulo_toNat _ _ hm

theorem posOf_eq {g : AxisGeometry} (x : AxisState) (hm : 0 < g.max.toNat) :
    posOf g x = BitVec.ofNat 16 ((g.first.toNat + x.p0.toNat) % g.max.toNat) := by
  rw [← modulo_natCast _ _ hm, posOf]
  push_cast
  rfl

theorem posOf_toNat {g : AxisGeometry} (x : AxisState) (hm : 0 < g.max.toNat) :
    (posOf g x).toNat = (g.first.toNat + x.p0.toNat) % g.max.toNat := by
  have h := modulo_natCast_toNat (g.first.toNat + x.p0.toNat) g.max hm
  push_cast at h
  exact h

/-! ### Advancing -/

theorem advance_p0 (g : AxisGeometry) (x : AxisState) (i : Nat) (hm : 0 < g.max.toNat) :
    (advance g x i).1 = BitVec.ofNat 16 ((x.p0.toNat + i) % g.max.toNat) :=
  modulo_natCast _ _ hm

theorem advance_p0_toNat (g : AxisGeometry) (x : AxisState) (i : Nat) (hm : 0 < g.max.toNat) :
    (advance g x i).1.toNat = (x.p0.toNat + i) % g.max.toNat :=
  modulo_natCast_toNat _ _ hm

theorem advance_p0_lt (g : AxisGeometry) (x : AxisState) (i : Nat) (hm : 0 < g.max.toNat) :
    (advance g x i).1.toNat < g.max.toNat :=
  modulo_lt _ _ hm

theorem advance_wrapped (g : AxisGeometry) (x : AxisState) (i : Nat) :
    (advance g x i).2 = true ↔ g.max.toNat ≤ x.p0.toNat + i := by
  simp [advance]

/-- All an advance of the beam can do (R74): without a wrap V stays; with one it advances by one. -/
theorem advanceBeam_cases (g : Geometry) (t : Tracker) (k : Nat) :
    (t.h.p0.toNat + k < g.h.max.toNat ∧
      advanceBeam g t k = { trk := t.setP0 .H (advance g.h t.h k).1, newLine := false, newFrame := false }) ∨
    (g.h.max.toNat ≤ t.h.p0.toNat + k ∧
      advanceBeam g t k =
        { trk := (t.setP0 .H (advance g.h t.h k).1).setP0 .V (advance g.v t.v 1).1,
          newLine := true, newFrame := (advance g.v t.v 1).2 }) := by
  by_cases h : g.h.max.toNat ≤ t.h.p0.toNat + k
  · exact .inr ⟨h, by simp [advanceBeam, (advance_wrapped g.h t.h k).2 h]⟩
  · refine .inl ⟨by omega, ?_⟩
    have h2 : (advance g.h t.h k).2 = false := by simp [advance]; omega
    simp [advanceBeam, h2]

/-- The beam moves and nothing else of the record changes. -/
theorem advanceBeam_frame (g : Geometry) (t : Tracker) (k : Nat) :
    (advanceBeam g t k).trk =
      { t with v := { t.v with p0 := (advanceBeam g t k).trk.v.p0 },
               h := { t.h with p0 := (advanceBeam g t k).trk.h.p0 } } := by
  obtain ⟨-, h⟩ | ⟨-, h⟩ := advanceBeam_cases g t k <;> rw [h] <;> rfl

theorem advanceBeam_inRange (g : Geometry) (t : Tracker) (k : Nat) (hv : InRange g.v t.v)
    (hh : 0 < g.h.max.toNat) :
    InRange g.v (advanceBeam g t k).trk.v ∧ InRange g.h (advanceBeam g t k).trk.h := by
  have hp := advance_p0_lt g.h t.h k hh
  have hq := advance_p0_lt g.v t.v 1 (by have : t.v.p0.toNat < g.v.max.toNat := hv; omega)
  obtain ⟨-, h⟩ | ⟨-, h⟩ := advanceBeam_cases g t k <;> rw [h]
  · exact ⟨hv, hp⟩
  · exact ⟨hq, hp⟩

/-! ### Chip cycles -/

/-- What one chip cycle writes: the two positions, the latch and the guard (R88, R89). -/
theorem chipCycle_trk (g : Geometry) (t : Tracker) :
    (chipCycle g t).trk =
      { t with v := { t.v with p0 := (advanceBeam g t g.ppc.toNat).trk.v.p0 },
               h := { t.h with p0 := (advanceBeam g t g.ppc.toNat).trk.h.p0 },
               newLine := (advanceBeam g t g.ppc.toNat).newLine,
               vblankSeen := inLastBlank g.v (advanceBeam g t g.ppc.toNat).trk.v } := by
  have h := advanceBeam_frame g t g.ppc.toNat
  simp only [chipCycle, framePhase, advancePhase, inLastVblank]
  rw [h]

@[simp] theorem chipCycle_run (g : Geometry) (t : Tracker) : (chipCycle g t).trk.run = t.run := by
  rw [chipCycle_trk]

@[simp] theorem chipCycle_lastCPU (g : Geometry) (t : Tracker) : (chipCycle g t).trk.lastCPU = t.lastCPU := by
  rw [chipCycle_trk]

@[simp] theorem chipCycle_lineReg (g : Geometry) (t : Tracker) : (chipCycle g t).trk.lineReg = t.lineReg := by
  rw [chipCycle_trk]

@[simp] theorem chipCycle_err (g : Geometry) (t : Tracker) : (chipCycle g t).trk.err = t.err := by
  rw [chipCycle_trk]

@[simp] theorem chipCycle_faulted (g : Geometry) (t : Tracker) : (chipCycle g t).trk.faulted = t.faulted := by
  rw [chipCycle_trk]

@[simp] theorem chipCycle_v_reduced (g : Geometry) (t : Tracker) :
    (chipCycle g t).trk.v.reduced = t.v.reduced := by
  rw [chipCycle_trk]

@[simp] theorem chipCycle_h_reduced (g : Geometry) (t : Tracker) :
    (chipCycle g t).trk.h.reduced = t.h.reduced := by
  rw [chipCycle_trk]

theorem chipCycle_inRange (g : Geometry) (t : Tracker) (hv : InRange g.v t.v) (hh : 0 < g.h.max.toNat) :
    InRange g.v (chipCycle g t).trk.v ∧ InRange g.h (chipCycle g t).trk.h := by
  rw [chipCycle_trk]
  exact advanceBeam_inRange g t g.ppc.toNat hv hh

/-- `m + n` chip cycles are `m` and then `n`. -/
theorem cyclesTracker_add (g : Geometry) (m n : Nat) (t : Tracker) :
    cyclesTracker g (m + n) t = cyclesTracker g n (cyclesTracker g m t) := by
  induction m generalizing t with
  | zero => simp [cyclesTracker]
  | succ m ih => rw [Nat.succ_add]; exact ih _

/-- The events of `m + n` chip cycles are those of `m` and then those of `n`. -/
theorem cyclesEvents_add (g : Geometry) (m n : Nat) (t : Tracker) :
    cyclesEvents g (m + n) t = cyclesEvents g m t ++ cyclesEvents g n (cyclesTracker g m t) := by
  induction m generalizing t with
  | zero => simp [cyclesTracker, cyclesEvents]
  | succ m ih => rw [Nat.succ_add]; simp only [cyclesEvents, cyclesTracker, ih, List.append_assoc]

/-- What chip cycles leave alone. -/
theorem cyclesTracker_frame (g : Geometry) (n : Nat) (t : Tracker) :
    (cyclesTracker g n t).run = t.run ∧ (cyclesTracker g n t).lastCPU = t.lastCPU ∧
      (cyclesTracker g n t).lineReg = t.lineReg ∧ (cyclesTracker g n t).err = t.err ∧
      (cyclesTracker g n t).faulted = t.faulted ∧ (cyclesTracker g n t).v.reduced = t.v.reduced ∧
      (cyclesTracker g n t).h.reduced = t.h.reduced := by
  induction n generalizing t with
  | zero => simp [cyclesTracker]
  | succ n ih => simpa [cyclesTracker] using ih (chipCycle g t).trk

theorem cyclesTracker_inRange (g : Geometry) (n : Nat) (t : Tracker) (hv : InRange g.v t.v)
    (hh : InRange g.h t.h) : InRange g.v (cyclesTracker g n t).v ∧ InRange g.h (cyclesTracker g n t).h := by
  induction n generalizing t with
  | zero => exact ⟨hv, hh⟩
  | succ n ih =>
    have h0 : 0 < g.h.max.toNat := by have : t.h.p0.toNat < g.h.max.toNat := hh; omega
    obtain ⟨h1, h2⟩ := chipCycle_inRange g t hv h0
    exact ih _ h1 h2

end Sys2Proof.Machine
end

