-- ==== Sys2Proof/Laws/Cycles.lean ====
section
/-! SUPPORT. What one chip cycle and one raster line of chip cycles do, and what chip cycles never read. -/

namespace Sys2Proof.Machine

theorem frameReadyCount_append (a b : List Emission) :
    frameReadyCount (a ++ b) = frameReadyCount a + frameReadyCount b := by
  simp [frameReadyCount, List.countP_append]

/-- A chip cycle notifies at most once, and exactly when the frame edge fires (R89). -/
theorem frameReadyCount_chipCycle (g : Geometry) (t : Tracker) :
    frameReadyCount (chipCycle g t).evt = if frameFires g (advancePhase g t).trk then 1 else 0 := by
  simp only [chipCycle, eventsBefore, eventsAfter, emission, frameReadyCount]
  cases t.newLine <;> cases visible2 g t <;> cases frameFires g (advancePhase g t).trk <;> simp

/-- A chip cycle inside a line, the guard level with the zone. -/
theorem chipCycle_within_line (g : Geometry) (t : Tracker)
    (h : t.h.p0.toNat + g.ppc.toNat < g.h.max.toNat) (hseen : t.vblankSeen = inLastBlank g.v t.v) :
    (chipCycle g t).trk =
      { t with h := { t.h with p0 := BitVec.ofNat 16 (t.h.p0.toNat + g.ppc.toNat) }, newLine := false } ∧
    frameReadyCount (chipCycle g t).evt = 0 := by
  obtain ⟨-, e⟩ | ⟨h', -⟩ := advanceBeam_cases g t g.ppc.toNat
  · have hm : 0 < g.h.max.toNat := by omega
    refine ⟨?_, ?_⟩
    · rw [chipCycle_trk, e, advance_p0 _ _ _ hm, Nat.mod_eq_of_lt h]
      simp only [setP0_H_v, setP0_H_h, ← hseen]
    · rw [frameReadyCount_chipCycle, advancePhase, e]
      simp [frameFires, inLastVblank, hseen]
  · omega

/-- The chip cycle that ends a line: H returns to 0 and V advances by one. -/
theorem chipCycle_ends_line (g : Geometry) (t : Tracker)
    (h : t.h.p0.toNat + g.ppc.toNat = g.h.max.toNat) (hm : 0 < g.h.max.toNat) (hv : 0 < g.v.max.toNat) :
    (chipCycle g t).trk =
      { t with
        v := { t.v with p0 := BitVec.ofNat 16 ((t.v.p0.toNat + 1) % g.v.max.toNat) }
        h := { t.h with p0 := 0 }
        newLine := true
        vblankSeen :=
          inLastBlank g.v { t.v with p0 := BitVec.ofNat 16 ((t.v.p0.toNat + 1) % g.v.max.toNat) } } ∧
    frameReadyCount (chipCycle g t).evt =
      if inLastBlank g.v { t.v with p0 := BitVec.ofNat 16 ((t.v.p0.toNat + 1) % g.v.max.toNat) }
        && !t.vblankSeen then 1 else 0 := by
  obtain ⟨h', -⟩ | ⟨-, e⟩ := advanceBeam_cases g t g.ppc.toNat
  · omega
  · refine ⟨?_, ?_⟩
    · rw [chipCycle_trk, e, advance_p0 _ _ _ hm, advance_p0 _ _ _ hv, h, Nat.mod_self]
      rfl
    · rw [frameReadyCount_chipCycle, advancePhase, e, advance_p0 _ _ _ hm, advance_p0 _ _ _ hv]
      rfl

/-- The first `k` chip cycles of a line. -/
theorem cycles_within_line (g : Geometry) (k : Nat) (t : Tracker) (hp : t.h.p0 = 0)
    (hk : k * g.ppc.toNat < g.h.max.toNat) (hseen : t.vblankSeen = inLastBlank g.v t.v) :
    (∃ nl, cyclesTracker g k t =
      { t with h := { t.h with p0 := BitVec.ofNat 16 (k * g.ppc.toNat) }, newLine := nl }) ∧
    frameReadyCount (cyclesEvents g k t) = 0 := by
  induction k with
  | zero =>
    refine ⟨⟨t.newLine, ?_⟩, rfl⟩
    obtain ⟨v, ⟨h, r⟩, nl, sn, run, lc, lr, e, f⟩ := t
    simp only at hp
    subst hp
    simp [cyclesTracker]
  | succ k ih =>
    have hk' : k * g.ppc.toNat + g.ppc.toNat < g.h.max.toNat := by rw [← Nat.succ_mul]; exact hk
    obtain ⟨⟨nl, i1⟩, i2⟩ := ih (by omega)
    have hlt := g.h.max.isLt
    have hN : (BitVec.ofNat 16 (k * g.ppc.toNat)).toNat = k * g.ppc.toNat := by simp; omega
    obtain ⟨c1, c2⟩ := chipCycle_within_line g
      { t with h := { t.h with p0 := BitVec.ofNat 16 (k * g.ppc.toNat) }, newLine := nl }
      (by simp only [hN]; exact hk') hseen
    rw [cyclesTracker_add, cyclesEvents_add, frameReadyCount_append, i1, i2]
    simp only [cyclesTracker, cyclesEvents, c1, frameReadyCount_append, c2]
    exact ⟨⟨false, by simp only [hN, Nat.succ_mul]⟩, rfl⟩

/-- One whole line of chip cycles from its start: V advances by one, a line has begun, and the frame
event fires exactly when the line entered the last VBlank zone. -/
theorem cycles_whole_line (g : Geometry) (t : Tracker) (hp : t.h.p0 = 0) (hg : geomOK g = true)
    (hseen : t.vblankSeen = inLastBlank g.v t.v) :
    cyclesTracker g (g.h.max.toNat / g.ppc.toNat) t =
      { t with
        v := { t.v with p0 := BitVec.ofNat 16 ((t.v.p0.toNat + 1) % g.v.max.toNat) }
        newLine := true
        vblankSeen :=
          inLastBlank g.v { t.v with p0 := BitVec.ofNat 16 ((t.v.p0.toNat + 1) % g.v.max.toNat) } } ∧
    frameReadyCount (cyclesEvents g (g.h.max.toNat / g.ppc.toNat) t) =
      if inLastBlank g.v { t.v with p0 := BitVec.ofNat 16 ((t.v.p0.toNat + 1) % g.v.max.toNat) }
        && !inLastBlank g.v t.v then 1 else 0 := by
  obtain ⟨h1, h2, h3, -⟩ := geomOK_chip hg
  have hv := axisOK_max_pos (geomOK_axis hg .V)
  have hd := Nat.div_pos h2 (by omega)
  obtain ⟨c, hc⟩ : ∃ c, g.h.max.toNat / g.ppc.toNat = c + 1 := ⟨g.h.max.toNat / g.ppc.toNat - 1, by omega⟩
  have hmul : (c + 1) * g.ppc.toNat = g.h.max.toNat := by
    rw [← hc]; exact Nat.div_mul_cancel (Nat.dvd_of_mod_eq_zero h3)
  rw [Nat.succ_mul] at hmul
  obtain ⟨⟨nl, i1⟩, i2⟩ := cycles_within_line g c t hp (by omega) hseen
  have hlt := g.h.max.isLt
  have hN : (BitVec.ofNat 16 (c * g.ppc.toNat)).toNat = c * g.ppc.toNat := by simp; omega
  obtain ⟨c1, c2⟩ := chipCycle_ends_line g
    { t with h := { t.h with p0 := BitVec.ofNat 16 (c * g.ppc.toNat) }, newLine := nl }
    (by simp only [hN]; omega) (by omega) hv
  rw [hc, cyclesTracker_add, cyclesEvents_add, frameReadyCount_append, i1, i2]
  simp only [cyclesTracker, cyclesEvents, c1, frameReadyCount_append, c2]
  refine ⟨?_, by rw [hseen]; simp [frameReadyCount]⟩
  obtain ⟨v, ⟨h, r⟩, nl', sn, run, lc, lr, e, f⟩ := t
  simp only at hp
  subst hp
  rfl

/-- A chip cycle reads neither `lastCPU` nor `lineReg`: with others in their place its record differs
in them alone, and its events not at all. -/
theorem chipCycle_with (g : Geometry) (t : Tracker) (c : Clk) (l : Pos) :
    (chipCycle g { t with lastCPU := c, lineReg := l }).trk =
      { (chipCycle g t).trk with lastCPU := c, lineReg := l } ∧
    (chipCycle g { t with lastCPU := c, lineReg := l }).evt.map (·.event) =
      (chipCycle g t).evt.map (·.event) := by
  have e : advancePhase g { t with lastCPU := c, lineReg := l } =
      { advancePhase g t with trk := { (advancePhase g t).trk with lastCPU := c, lineReg := l } } := by
    unfold advancePhase
    obtain ⟨h, e⟩ | ⟨h, e⟩ := advanceBeam_cases g t g.ppc.toNat <;>
    obtain ⟨h', e'⟩ | ⟨h', e'⟩ := advanceBeam_cases g { t with lastCPU := c, lineReg := l } g.ppc.toNat
    · rw [e, e']; rfl
    · exact absurd h (Nat.not_lt.2 h')
    · exact absurd h' (Nat.not_lt.2 h)
    · rw [e, e']; rfl
  have hm : ∀ (b : Bool) (x : Emission),
      (if b = true then [x] else []).map (·.event) = if b = true then [x.event] else [] := by
    intro b x; cases b <;> rfl
  simp only [chipCycle, e]
  refine ⟨rfl, ?_⟩
  simp only [eventsBefore, eventsAfter, List.map_append, List.map_cons, hm]
  rfl

/-- No number of chip cycles reads `lastCPU` or `lineReg`. -/
theorem cycles_with (g : Geometry) (n : Nat) (t : Tracker) (c : Clk) (l : Pos) :
    cyclesTracker g n { t with lastCPU := c, lineReg := l } =
      { cyclesTracker g n t with lastCPU := c, lineReg := l } ∧
    (cyclesEvents g n { t with lastCPU := c, lineReg := l }).map (·.event) =
      (cyclesEvents g n t).map (·.event) := by
  induction n generalizing t with
  | zero => exact ⟨rfl, rfl⟩
  | succ n ih =>
    obtain ⟨h1, h2⟩ := chipCycle_with g t c l
    simp only [cyclesTracker, cyclesEvents, h1, List.map_append, h2]
    obtain ⟨i1, i2⟩ := ih (chipCycle g t).trk
    exact ⟨i1, by rw [i2]⟩

end Sys2Proof.Machine
end

