-- ==== Sys2Proof/Laws/Decode.lean ====
section
/-! SUPPORT. The fields of a command word, and what it takes for a row of the opcode map to select a word. -/

namespace Sys2Proof

/-- A word is its fields, most significant first (R49). -/
theorem word_eq_fields (cw : Word) :
    cw = opcField cw ++ (rsvField cw ++ (BitVec.ofBool (hbField cw) ++ (BitVec.ofBool (sbField cw) ++
      (BitVec.ofBool (axField cw) ++ immField cw)))) := by
  apply BitVec.eq_of_getLsbD_eq
  intro i hi
  simp only [opcField, rsvField, hbField, sbField, axField, immField, BitVec.getLsbD_append,
    BitVec.getLsbD_extractLsb', BitVec.getLsbD_ofBool]
  interval_cases i <;> simp

section Fields

variable (a : BitVec 8) (b : BitVec 5) (c d e : BitVec 1) (f : Pos)

theorem opcField_fields : opcField (a ++ (b ++ (c ++ (d ++ (e ++ f))))) = a := by
  apply BitVec.eq_of_getLsbD_eq
  intro i hi
  simp only [opcField, BitVec.getLsbD_append, BitVec.getLsbD_extractLsb']
  interval_cases i <;> simp

theorem rsvField_fields : rsvField (a ++ (b ++ (c ++ (d ++ (e ++ f))))) = b := by
  apply BitVec.eq_of_getLsbD_eq
  intro i hi
  simp only [rsvField, BitVec.getLsbD_append, BitVec.getLsbD_extractLsb']
  interval_cases i <;> simp

theorem immField_fields : immField (a ++ (b ++ (c ++ (d ++ (e ++ f))))) = f := by
  apply BitVec.eq_of_getLsbD_eq
  intro i hi
  simp only [immField, BitVec.getLsbD_append, BitVec.getLsbD_extractLsb']
  interval_cases i <;> simp

theorem hbField_fields : hbField (a ++ (b ++ (c ++ (d ++ (e ++ f))))) = c.getLsbD 0 := by
  simp only [hbField, BitVec.getLsbD_append]
  simp

theorem sbField_fields : sbField (a ++ (b ++ (c ++ (d ++ (e ++ f))))) = d.getLsbD 0 := by
  simp only [sbField, BitVec.getLsbD_append]
  simp

theorem axField_fields : axField (a ++ (b ++ (c ++ (d ++ (e ++ f))))) = e.getLsbD 0 := by
  simp only [axField, BitVec.getLsbD_append]
  simp

end Fields

/-- Two words are equal when each of their fields is. -/
theorem word_ext_fields (x y : Word) :
    x = y ↔ opcField x = opcField y ∧ rsvField x = rsvField y ∧ hbField x = hbField y ∧
      sbField x = sbField y ∧ axField x = axField y ∧ immField x = immField y := by
  constructor
  · rintro rfl
    simp
  · rintro ⟨h1, h2, h3, h4, h5, h6⟩
    rw [word_eq_fields x, word_eq_fields y, h1, h2, h3, h4, h5, h6]

section CommandWord

variable (opc : BitVec 8) (hb sb ax : Bool) (imm : Pos)

@[simp] theorem opcField_commandWord : opcField (commandWord opc hb sb ax imm) = opc := opcField_fields ..

@[simp] theorem rsvField_commandWord : rsvField (commandWord opc hb sb ax imm) = 0 := rsvField_fields ..

@[simp] theorem hbField_commandWord : hbField (commandWord opc hb sb ax imm) = hb :=
  (hbField_fields ..).trans (by simp)

@[simp] theorem sbField_commandWord : sbField (commandWord opc hb sb ax imm) = sb :=
  (sbField_fields ..).trans (by simp)

@[simp] theorem axField_commandWord : axField (commandWord opc hb sb ax imm) = ax :=
  (axField_fields ..).trans (by simp)

@[simp] theorem immField_commandWord : immField (commandWord opc hb sb ax imm) = imm := immField_fields ..

end CommandWord

/-- The mask of a row by the fields it lists: `OPC`, `RSV` and every field not listed (R53). -/
def maskOf (u : FieldUse) : Word :=
  0xFF#8 ++ (0x1F#5 ++ (BitVec.ofBool (!u.hb) ++ (BitVec.ofBool (!u.sb) ++ (BitVec.ofBool (!u.ax) ++
    (if u.imm then 0 else 0xFFFF : Pos)))))

/-- A masked word equals an opcode's match word exactly when the opcode is the word's and the reserved
and unlisted fields are clear. -/
theorem masked_eq_iff (cw : Word) (opc : BitVec 8) (u : FieldUse) :
    cw &&& maskOf u = commandWord opc false false false 0 ↔
      opcField cw = opc ∧ fieldsClear u cw = true := by
  have h1 : opcField (cw &&& maskOf u) = opcField cw := by
    have h : opcField (maskOf u) = 0xFF#8 := opcField_fields ..
    rw [opcField] at h
    rw [opcField, BitVec.extractLsb'_and, h, opcField]
    exact BitVec.and_allOnes
  have h2 : rsvField (cw &&& maskOf u) = rsvField cw := by
    have h : rsvField (maskOf u) = 0x1F#5 := rsvField_fields ..
    rw [rsvField] at h
    rw [rsvField, BitVec.extractLsb'_and, h, rsvField]
    exact BitVec.and_allOnes
  have h3 : hbField (cw &&& maskOf u) = (hbField cw && !u.hb) := by
    have h : hbField (maskOf u) = !u.hb := (hbField_fields ..).trans (by simp)
    rw [hbField] at h
    rw [hbField, BitVec.getLsbD_and, h, hbField]
  have h4 : sbField (cw &&& maskOf u) = (sbField cw && !u.sb) := by
    have h : sbField (maskOf u) = !u.sb := (sbField_fields ..).trans (by simp)
    rw [sbField] at h
    rw [sbField, BitVec.getLsbD_and, h, sbField]
  have h5 : axField (cw &&& maskOf u) = (axField cw && !u.ax) := by
    have h : axField (maskOf u) = !u.ax := (axField_fields ..).trans (by simp)
    rw [axField] at h
    rw [axField, BitVec.getLsbD_and, h, axField]
  have h6 : immField (cw &&& maskOf u) = if u.imm then 0 else immField cw := by
    have h : immField (maskOf u) = if u.imm then 0 else 0xFFFF := immField_fields ..
    rw [immField] at h
    rw [immField, BitVec.extractLsb'_and, h, immField]
    split
    · exact BitVec.and_zero
    · exact BitVec.and_allOnes
  rw [word_ext_fields]
  simp only [h1, h2, h3, h4, h5, h6, opcField_commandWord, rsvField_commandWord, hbField_commandWord,
    sbField_commandWord, axField_commandWord, immField_commandWord, fieldsClear]
  obtain ⟨x, y, z, w⟩ := u
  cases x <;> cases y <;> cases z <;> cases w <;> simp [and_assoc]

/-- Every row's match and mask are those of an assigned opcode and its listed fields (R53). -/
theorem opMap_rows (r : OpRow) (hr : r ∈ opMap) :
    ∃ u, fieldUse (opcField r.value) = some u ∧ r.mask = maskOf u ∧
      r.value = commandWord (opcField r.value) false false false 0 := by
  have h : opMap.all (fun r => match fieldUse (opcField r.value) with
      | some u => r.mask == maskOf u && r.value == commandWord (opcField r.value) false false false 0
      | none => false) = true := by decide
  have h1 := List.all_eq_true.1 h r hr
  cases hu : fieldUse (opcField r.value) with
  | none => rw [hu] at h1; exact absurd h1 (by simp)
  | some u =>
    rw [hu] at h1
    simp only [Bool.and_eq_true, beq_iff_eq] at h1
    exact ⟨u, rfl, h1.1, h1.2⟩

/-- A row selects exactly the well-formed words of its opcode. -/
theorem row_selects_iff (r : OpRow) (hr : r ∈ opMap) (cw : Word) :
    r.selects cw = true ↔ opcField cw = opcField r.value ∧ wordWellFormed cw = true := by
  obtain ⟨u, hu, hm, hv⟩ := opMap_rows r hr
  rw [OpRow.selects, beq_iff_eq, hm, hv, masked_eq_iff, opcField_commandWord]
  constructor
  · rintro ⟨h1, h2⟩
    refine ⟨h1, ?_⟩
    simp only [wordWellFormed, h1, hu, h2]
  · rintro ⟨h1, h2⟩
    simp only [wordWellFormed, h1, hu] at h2
    exact ⟨h1, h2⟩

/-- Every assigned opcode has a row. -/
theorem opMap_complete (opc : BitVec 8) (h : (fieldUse opc).isSome = true) :
    ∃ r ∈ opMap, opcField r.value = opc := by
  have key : (List.range 256).all (fun n => !(fieldUse (BitVec.ofNat 8 n)).isSome ||
      opMap.any (fun r => opcField r.value == BitVec.ofNat 8 n)) = true := by decide +kernel
  have h1 := List.all_eq_true.1 key opc.toNat (List.mem_range.2 opc.isLt)
  rw [BitVec.ofNat_toNat, BitVec.setWidth_eq, h] at h1
  simpa using h1

/-- No two rows have one opcode. -/
theorem opMap_opcodes_nodup : (opMap.map fun r => opcField r.value).Nodup := by decide +kernel

/-- All the decoder can answer: the command of a row that selects the word. -/
theorem decode_cases {cw : Word} {i : Instr} (h : decode cw = .ok i) :
    ∃ r ∈ opMap, r.selects cw = true ∧ i = r.build (operandsOf cw) := by
  unfold decode at h
  cases hf : opMap.find? (·.selects cw) with
  | none => rw [hf] at h; cases h
  | some r =>
    rw [hf] at h
    refine ⟨r, List.mem_of_find?_eq_some hf, ?_, (Except.ok.inj h).symm⟩
    simpa using List.find?_some (p := fun x : OpRow => x.selects cw) hf

/-- A word a row selects decodes to the command of that row. -/
theorem decode_of_row {cw : Word} {r : OpRow} (hr : r ∈ opMap) (hs : r.selects cw = true) :
    decode cw = .ok (r.build (operandsOf cw)) := by
  cases hf : opMap.find? (·.selects cw) with
  | none => exact absurd hs (by simpa using List.find?_eq_none.1 hf r hr)
  | some r' =>
    have hm := List.mem_of_find?_eq_some hf
    have hs' : r'.selects cw = true := by
      simpa using List.find?_some (p := fun x : OpRow => x.selects cw) hf
    have h1 := ((row_selects_iff r hr cw).1 hs).1
    have h2 := ((row_selects_iff r' hm cw).1 hs').1
    have h3 : r' = r := List.inj_on_of_nodup_map opMap_opcodes_nodup hm hr (h2.symm.trans h1)
    rw [decode, hf, h3]

end Sys2Proof
end

