-- ==== Sys2Proof/Laws/Flags.lean ====
section
/-! SUPPORT. What each zone predicate, and each bit of a packed word, says. -/

namespace Sys2Proof.Machine

theorem inBlank_iff (g : AxisGeometry) (x : AxisState) :
    inBlank g x = true ↔ x.p0.toNat < (firstVis0 g).toNat ∨ (lastVis0 g).toNat < x.p0.toNat := by
  simp [inBlank]

theorem inLastBlank_iff (g : AxisGeometry) (x : AxisState) :
    inLastBlank g x = true ↔ (lastVis0 g).toNat < x.p0.toNat := by
  simp [inLastBlank]

theorem inVisible_iff (g : AxisGeometry) (x : AxisState) :
    inVisible g x = true ↔ (firstVis0 g).toNat ≤ x.p0.toNat ∧ x.p0.toNat ≤ (lastVis0 g).toNat := by
  simp [inVisible]

theorem inDisplay_iff (g : AxisGeometry) (x : AxisState) :
    inDisplay g x = true ↔ (firstDisp0 g).toNat ≤ x.p0.toNat ∧ x.p0.toNat ≤ (lastDisp0 g).toNat := by
  simp [inDisplay]

theorem inScreen_iff (g : AxisGeometry) (x : AxisState) :
    inScreen g x = true ↔ firstScr0 g x ≤ (x.p0.toNat : Int) ∧ (x.p0.toNat : Int) ≤ lastScr0 g x :=
  decide_eq_true_iff

theorem firstScr0_of_reduced {g : AxisGeometry} {x : AxisState} (h : x.reduced = true) :
    firstScr0 g x = ((firstDisp0 g).toNat : Int) + (g.r1.toNat : Int) := by
  simp [firstScr0, h]

theorem firstScr0_of_not_reduced {g : AxisGeometry} {x : AxisState} (h : x.reduced = false) :
    firstScr0 g x = ((firstDisp0 g).toNat : Int) := by
  simp [firstScr0, h]

theorem lastScr0_of_reduced {g : AxisGeometry} {x : AxisState} (h : x.reduced = true) :
    lastScr0 g x = ((lastDisp0 g).toNat : Int) - (g.r2.toNat : Int) := by
  simp [lastScr0, h]

theorem lastScr0_of_not_reduced {g : AxisGeometry} {x : AxisState} (h : x.reduced = false) :
    lastScr0 g x = ((lastDisp0 g).toNat : Int) := by
  simp [lastScr0, h]

/-- Bit `i` of a packed word is its `i`-th Boolean. -/
theorem packBits_getLsbD (bs : List Bool) (i : Nat) :
    (packBits bs).getLsbD i = (decide (i < 32) && bs.getD i false) := by
  induction bs generalizing i with
  | nil => simp [packBits]
  | cons b bs ih =>
    cases i with
    | zero => cases b <;> simp [packBits, zextBool]
    | succ i =>
      have hb : (zextBool b).getLsbD (i + 1) = false := by
        simp [zextBool]
      rw [packBits, BitVec.getLsbD_or, hb, BitVec.getLsbD_shiftLeft]
      by_cases h : i + 1 < 32
      · have h2 : i < 32 := by omega
        have h3 := ih i
        simp only [h, h2, decide_true, Bool.true_and] at h3 ⊢
        simpa using h3
      · simp [h]

end Sys2Proof.Machine
end

