-- ==== Sys2Proof/Laws/PerInstr.lean ====
section
/-! SUPPORT. The family Encoding: what the word of each command holds, one lemma per constructor. -/

namespace Sys2Proof.Laws.Encoding

/-- The word of a command holds its opcode and its operands, and nothing in a field its row does not list. -/
def Statement (i : Instr) : Prop :=
  opcField (encode i) = opcodeOf i ∧ operandsOf (encode i) = operandFields i ∧
    wordWellFormed (encode i) = true

/-- Opcode and operands are read back from any command word. -/
theorem fields_of_encode (i : Instr) :
    opcField (encode i) = opcodeOf i ∧ operandsOf (encode i) = operandFields i := by
  refine ⟨opcField_commandWord .., ?_⟩
  have hax : axisOfBit (bitOfAxis (operandFields i).ax) = (operandFields i).ax := by
    cases (operandFields i).ax <;> rfl
  simp [operandsOf, encode, hax]

/-- The fields a row lists hold what its command carries; the others are clear. -/
theorem statement_of (i : Instr) (u : FieldUse) (hu : fieldUse (opcodeOf i) = some u)
    (hc : (u.hb || !(operandFields i).h) = true ∧ (u.sb || !(operandFields i).s) = true ∧
      (u.ax || !bitOfAxis (operandFields i).ax) = true ∧ (u.imm || (operandFields i).imm == 0) = true) :
    Statement i := by
  obtain ⟨h1, h2⟩ := fields_of_encode i
  refine ⟨h1, h2, ?_⟩
  have h3 : fieldUse (opcField (encode i)) = some u := by rw [h1, hu]
  have h4 : fieldsClear u (encode i) = true := by
    simp only [fieldsClear, encode, rsvField_commandWord, hbField_commandWord, sbField_commandWord,
      axField_commandWord, immField_commandWord, Bool.and_eq_true]
    exact ⟨⟨⟨⟨rfl, hc.1⟩, hc.2.1⟩, hc.2.2.1⟩, hc.2.2.2⟩
  simp only [wordWellFormed, h3, h4]

theorem axadd (a : Axis) (i : Pos) : Statement (.axadd a i) :=
  statement_of _ _ rfl (by simp [operandFields, bitOfAxis])

theorem axnext (a : Axis) : Statement (.axnext a) :=
  statement_of _ _ rfl (by simp [operandFields, bitOfAxis])

theorem axred (a : Axis) (s : Bool) : Statement (.axred a s) :=
  statement_of _ _ rfl (by simp [operandFields, bitOfAxis])

theorem axb0 (a : Axis) (m : Pos) : Statement (.axb0 a m) :=
  statement_of _ _ rfl (by simp [operandFields, bitOfAxis])

theorem axpos (a : Axis) : Statement (.axpos a) :=
  statement_of _ _ rfl (by simp [operandFields, bitOfAxis])

theorem axpos0 (a : Axis) : Statement (.axpos0 a) :=
  statement_of _ _ rfl (by simp [operandFields, bitOfAxis])

theorem axblank (a : Axis) : Statement (.axblank a) :=
  statement_of _ _ rfl (by simp [operandFields, bitOfAxis])

theorem axlblank (a : Axis) : Statement (.axlblank a) :=
  statement_of _ _ rfl (by simp [operandFields, bitOfAxis])

theorem axvis (a : Axis) : Statement (.axvis a) :=
  statement_of _ _ rfl (by simp [operandFields, bitOfAxis])

theorem axdisp (a : Axis) : Statement (.axdisp a) :=
  statement_of _ _ rfl (by simp [operandFields, bitOfAxis])

theorem axscr (a : Axis) : Statement (.axscr a) :=
  statement_of _ _ rfl (by simp [operandFields, bitOfAxis])

theorem axrdred (a : Axis) : Statement (.axrdred a) :=
  statement_of _ _ rfl (by simp [operandFields, bitOfAxis])

theorem move (n : Pos) : Statement (.move n) :=
  statement_of _ _ rfl (by simp [operandFields, bitOfAxis])

theorem red2 (v : Bool) (h : Bool) : Statement (.red2 v h) :=
  statement_of _ _ rfl (by simp [operandFields, bitOfAxis])

theorem vispos (a : Axis) : Statement (.vispos a) :=
  statement_of _ _ rfl (by simp [operandFields, bitOfAxis])

theorem disppos (a : Axis) : Statement (.disppos a) :=
  statement_of _ _ rfl (by simp [operandFields, bitOfAxis])

theorem blkcol : Statement (.blkcol) :=
  statement_of _ _ rfl (by simp [operandFields, bitOfAxis])

theorem cycle : Statement (.cycle) :=
  statement_of _ _ rfl (by simp [operandFields, bitOfAxis])

theorem vis2 : Statement (.vis2) :=
  statement_of _ _ rfl (by simp [operandFields, bitOfAxis])

theorem disp2 : Statement (.disp2) :=
  statement_of _ _ rfl (by simp [operandFields, bitOfAxis])

theorem scr2 : Statement (.scr2) :=
  statement_of _ _ rfl (by simp [operandFields, bitOfAxis])

theorem vblank : Statement (.vblank) :=
  statement_of _ _ rfl (by simp [operandFields, bitOfAxis])

theorem lastvblank : Statement (.lastvblank) :=
  statement_of _ _ rfl (by simp [operandFields, bitOfAxis])

theorem tick : Statement (.tick) :=
  statement_of _ _ rfl (by simp [operandFields, bitOfAxis])

theorem run : Statement (.run) :=
  statement_of _ _ rfl (by simp [operandFields, bitOfAxis])

theorem linecmp (cmp : Pos) : Statement (.linecmp cmp) :=
  statement_of _ _ rfl (by simp [operandFields, bitOfAxis])

theorem rdline : Statement (.rdline) :=
  statement_of _ _ rfl (by simp [operandFields, bitOfAxis])

theorem rdstat : Statement (.rdstat) :=
  statement_of _ _ rfl (by simp [operandFields, bitOfAxis])

theorem reset : Statement (.reset) :=
  statement_of _ _ rfl (by simp [operandFields, bitOfAxis])

end Sys2Proof.Laws.Encoding
end

