-- ==== Sys2Proof/Laws/Step.lean ====
section
/-! SUPPORT. What exec and step can do, said once: every later proof about all commands goes through these. -/

namespace Sys2Proof.Machine

/-- A faulted tracker refuses every command but RESET (R99). -/
theorem exec_of_faulted {i : Instr} {s : State} (hf : s.trk.faulted = true) (hi : i ≠ .reset) :
    exec i s = .next (raiseFault s .geometryInvalid) := by
  cases i
  case reset => exact absurd rfl hi
  all_goals exact unlessFaulted_of_faulted hf

/-- A query leaves the record and answers something. -/
theorem exec_of_query {i : Instr} {s : State} (hq : isQuery i = true) (hf : s.trk.faulted = false) :
    ∃ r, exec i s = .next (complete s s.trk r []) := by
  cases i
  case axadd | axnext | axred | move | red2 | tick | run | reset => exact absurd hq Bool.false_ne_true
  all_goals exact ⟨_, unlessFaulted_of_ok hf⟩

/-- All a MOVE that is not refused can do (R75, R100). -/
theorem moveCycles_cases (n : Pos) (s : State) :
    (s.geom.h.max.toNat < n.toNat * s.geom.ppc.toNat ∧ moveCycles n s = raiseFault s .overstep) ∨
    (n.toNat * s.geom.ppc.toNat ≤ s.geom.h.max.toNat ∧
      moveCycles n s = complete s (advanceBeam s.geom s.trk (n.toNat * s.geom.ppc.toNat)).trk
        (zextBool (advanceBeam s.geom s.trk (n.toNat * s.geom.ppc.toNat)).newLine) []) := by
  by_cases h : s.geom.h.max.toNat < n.toNat * s.geom.ppc.toNat
  · exact .inl ⟨h, if_pos h⟩
  · exact .inr ⟨by omega, if_neg h⟩

/-- All a command can do on a tracker that is not faulted, RESET apart: the record it leaves, said by
command, with the geometry and the inputs as they were. -/
theorem exec_of_ok {i : Instr} {s t : State} (hf : s.trk.faulted = false) (hi : i ≠ .reset)
    (h : exec i s = .next t) :
    (t = raiseFault s .overstep ∧ ∃ n, i = .move n) ∨
    ∃ trk r ev, t = complete s trk r ev ∧
      ((isQuery i = true ∧ trk = s.trk ∧ ev = []) ∨
       (∃ a k, ((∃ n, i = .axadd a n) ∨ i = .axnext a) ∧ ev = [] ∧
          trk = s.trk.setP0 a (advance (s.geom.axis a) (s.trk.axis a) k).1) ∨
       (∃ a b, i = .axred a b ∧ ev = [] ∧ trk = s.trk.setReduced a b) ∨
       (∃ v b, i = .red2 v b ∧ ev = [] ∧ trk = (s.trk.setReduced .V v).setReduced .H b) ∨
       (∃ n k, i = .move n ∧ ev = [] ∧ trk = (advanceBeam s.geom s.trk k).trk) ∨
       (i = .tick ∧ trk = (chipCycle s.geom s.trk).trk ∧ ev = (chipCycle s.geom s.trk).evt) ∨
       (i = .run ∧ s.trk.run = .idle ∧ ev = [] ∧ trk = { s.trk with lastCPU := s.cpuClk, run := .loop }) ∨
       (i = .run ∧ s.trk.run = .loop ∧ trk =
          { cyclesTracker s.geom (runCount s) { s.trk with lastCPU := s.cpuClk } with
            lineReg := rasterLine s.geom
              (cyclesTracker s.geom (runCount s) { s.trk with lastCPU := s.cpuClk }) })) := by
  cases i
  case reset => exact absurd rfl hi
  case axadd a n =>
    have h := Host.Outcome.next.inj ((unlessFaulted_of_ok hf).symm.trans h)
    exact .inr ⟨_, _, _, h.symm, .inr (.inl ⟨a, n.toNat, .inl ⟨n, rfl⟩, rfl, rfl⟩)⟩
  case axnext a =>
    have h := Host.Outcome.next.inj ((unlessFaulted_of_ok hf).symm.trans h)
    exact .inr ⟨_, _, _, h.symm, .inr (.inl ⟨a, 1, .inr rfl, rfl, rfl⟩)⟩
  case axred a b =>
    have h := Host.Outcome.next.inj ((unlessFaulted_of_ok hf).symm.trans h)
    exact .inr ⟨_, _, _, h.symm, .inr (.inr (.inl ⟨a, b, rfl, rfl, rfl⟩))⟩
  case red2 v b =>
    have h := Host.Outcome.next.inj ((unlessFaulted_of_ok hf).symm.trans h)
    exact .inr ⟨_, _, _, h.symm, .inr (.inr (.inr (.inl ⟨v, b, rfl, rfl, rfl⟩)))⟩
  case move n =>
    have h := (Host.Outcome.next.inj ((unlessFaulted_of_ok hf).symm.trans h)).symm
    obtain ⟨-, e⟩ | ⟨-, e⟩ := moveCycles_cases n s
    · exact .inl ⟨h.trans e, n, rfl⟩
    · exact .inr ⟨_, _, _, h.trans e, .inr (.inr (.inr (.inr (.inl ⟨n, _, rfl, rfl, rfl⟩))))⟩
  case tick =>
    have h := Host.Outcome.next.inj ((unlessFaulted_of_ok hf).symm.trans h)
    exact .inr ⟨_, _, _, h.symm,
      .inr (.inr (.inr (.inr (.inr (.inl ⟨rfl, rfl, rfl⟩)))))⟩
  case run =>
    cases hr : s.trk.run
    · have e : exec .run s = .next (runBaseline s) := by
        simp only [exec, execRun, hr, unlessFaulted_of_ok hf]
      exact .inr ⟨_, _, _, (Host.Outcome.next.inj (e ▸ h)).symm,
        .inr (.inr (.inr (.inr (.inr (.inr (.inl ⟨rfl, rfl, rfl, rfl⟩))))))⟩
    · have e : exec .run s = .next (runLoop s) := by
        simp only [exec, execRun, hr, unlessFaulted_of_ok hf]
      exact .inr ⟨_, _, _, (Host.Outcome.next.inj (e ▸ h)).symm,
        .inr (.inr (.inr (.inr (.inr (.inr (.inr ⟨rfl, rfl, rfl⟩))))))⟩
  all_goals
    have h := Host.Outcome.next.inj ((unlessFaulted_of_ok hf).symm.trans h)
    exact .inr ⟨_, _, _, h.symm, .inl ⟨rfl, rfl, rfl⟩⟩

/-- All a step can do: hold with no command presented; refuse the word; or run the command. -/
theorem step_cases {s t : State} (h : step s = .next t) :
    (s.inputs = [] ∧ t = s) ∨
    ∃ tx rest, s.inputs = tx :: rest ∧
      ((s.trk.faulted = true ∧ tx.cmd ≠ resetWord ∧ t = raiseFault (present s tx rest) .geometryInvalid) ∨
       (¬(s.trk.faulted = true ∧ tx.cmd ≠ resetWord) ∧ (∀ i, decode tx.cmd ≠ .ok i) ∧
          t = raiseFault (present s tx rest) .illegalCommand) ∨
       (¬(s.trk.faulted = true ∧ tx.cmd ≠ resetWord) ∧
          ∃ i, decode tx.cmd = .ok i ∧ exec i (present s tx rest) = .next t)) := by
  unfold step at h
  split at h
  · next hi => exact .inl ⟨hi, (Host.Outcome.next.inj h).symm⟩
  · next tx rest hi =>
    refine .inr ⟨tx, rest, hi, ?_⟩
    unfold acceptWord at h
    by_cases hg : s.trk.faulted = true ∧ tx.cmd ≠ resetWord
    · rw [if_pos (by simpa using hg)] at h
      exact .inl ⟨hg.1, hg.2, (Host.Outcome.next.inj h).symm⟩
    · rw [if_neg (by simpa using hg)] at h
      cases hd : decode tx.cmd with
      | ok i =>
        rw [hd] at h
        exact .inr (.inr ⟨hg, i, rfl, h⟩)
      | error r =>
        rw [hd] at h
        exact .inr (.inl ⟨hg, by simp, (Host.Outcome.next.inj h).symm⟩)

end Sys2Proof.Machine
end

