-- ==== Sys2Proof/Tests/Slice0.lean ====
section
/-! SUPPORT. Tests and witnesses. Every expected value is from 95_test_vectors.md (section given), 30_encoding.md R55 or a rule's own example; none is the model's own answer. TG is that file's geometry, which "is not the geometry of any chip". -/

namespace Sys2Proof.Tests

open Sys2Proof.Machine Sys2Proof.Claims

/-! ### The test geometry and small states -/

/-- The vertical axis of TG (95 section 1). -/
def tgV : AxisGeometry := ⟨0, 2, 4, 11, 13, 15, 16, 1, 2⟩

/-- The horizontal axis of TG (95 section 1). -/
def tgH : AxisGeometry := ⟨20, 22, 2, 13, 17, 19, 24, 3, 2⟩

/-- TG (95 section 1). -/
def tg : Geometry := { v := tgV, h := tgH, ppc := 8, cpc := 1 }

/-- TG with `V.last = 14`, which breaks g3 (95 section 7.2). -/
def brokenTg : Geometry := { tg with v := { tgV with last := 14 } }

/-- TG after reset with the beam placed at `(V.p0, H.p0) = (v, h)`. -/
def at' (v h : Pos) : State :=
  { State.powerOn tg with
    trk := { resetTracker tg with v := { p0 := v, reduced := false }, h := { p0 := h, reduced := false } } }

/-- The same with the reductions of both axes set as given. -/
def atRed (v h : Pos) (rv rh : Bool) : State :=
  { at' v h with trk := { (at' v h).trk with v := { p0 := v, reduced := rv }, h := { p0 := h, reduced := rh } } }

/-- TG after reset with the words presented in turn, `CPUCLK` 0. -/
def presenting (g : Geometry) (ws : List Word) : State :=
  { State.powerOn g with inputs := ws.map fun w => { cmd := w, cpuClk := 0 } }

/-- The state an outcome leaves; every outcome of this machine is a next state. -/
def left (s : State) : Host.Outcome State Fault Refusal → State
  | .next t => t
  | .fault _ => s
  | .refused _ => s

/-- The state after a command. -/
def after (i : Instr) (s : State) : State := left s (exec i s)

/-- The state after a RUN at a CPU count. -/
def afterRun (c : Clk) (s : State) : State := after .run { s with cpuClk := c }

/-- What a command answers. -/
def answer (i : Instr) (s : State) : RCode × Word := ((after i s).rcode, (after i s).resp)

/-- The beam, `(V.p0, H.p0)`. -/
def beamOf (s : State) : Pos × Pos := (s.trk.v.p0, s.trk.h.p0)

/-- The state after `n` steps. -/
def steps : Nat → State → State
  | 0, s => s
  | n + 1, s => steps n (left s (step s))

/-! ### WellFormed: each check refuses an ill-formed term (R54, R55; 95 section 3) -/

theorem test_wf_unassigned_opcodes :
    ([0x00000000, 0x02000000, 0x1C000000, 0x2B000000, 0x35000000, 0xFF000000] : List Word).map wordWellFormed =
      [false, false, false, false, false, false] := by decide

theorem test_wf_rsv : wordWellFormed 0x30080000 = false := by decide

theorem test_wf_hb : wordWellFormed 0x12040000 = false ∧ wordWellFormed 0x34040000 = false := by decide

theorem test_wf_sb : wordWellFormed 0x10020005 = false ∧ wordWellFormed 0x32020003 = false := by decide

theorem test_wf_ax : wordWellFormed 0x30010000 = false ∧ wordWellFormed 0x21010000 = false := by decide

theorem test_wf_imm : wordWellFormed 0x11000001 = false ∧ wordWellFormed 0x01000001 = false := by decide

theorem test_wf_accepts : wordWellFormed 0x1001FFFF = true ∧ wordWellFormed 0x21060000 = true := by decide

theorem test_wf_immediate_operand :
    immOperandOK (.num 65536) = false ∧ immOperandOK (.axis .V) = false ∧ immOperandOK (.num 65535) = true := by
  decide

theorem test_wf_boolean_operand :
    boolOperandOK (.num 2) = false ∧ boolOperandOK (.axis .H) = false ∧ boolOperandOK (.word true) = true := by
  decide

theorem test_wf_axis_operand : axisOperandOK (.num 0) = false ∧ axisOperandOK (.axis .H) = true := by decide

/-! ### Decode: every command by a word of 95 section 3 -/

theorem test_decode_axis :
    decode 0x10000000 = .ok (.axadd .V 0) ∧ decode 0x1001FFFF = .ok (.axadd .H 65535) ∧
    decode 0x11010000 = .ok (.axnext .H) ∧ decode 0x12020000 = .ok (.axred .V true) ∧
    decode 0x12030000 = .ok (.axred .H true) ∧ decode 0x13010064 = .ok (.axb0 .H 100) ∧
    decode 0x14000000 = .ok (.axpos .V) ∧ decode 0x15010000 = .ok (.axpos0 .H) := by decide

theorem test_decode_axis_zones :
    decode 0x16000000 = .ok (.axblank .V) ∧ decode 0x17000000 = .ok (.axlblank .V) ∧
    decode 0x18010000 = .ok (.axvis .H) ∧ decode 0x19010000 = .ok (.axdisp .H) ∧
    decode 0x1A000000 = .ok (.axscr .V) ∧ decode 0x1B010000 = .ok (.axrdred .H) := by decide

theorem test_decode_raster :
    decode 0x20000001 = .ok (.move 1) ∧ decode 0x21020000 = .ok (.red2 true false) ∧
    decode 0x21040000 = .ok (.red2 false true) ∧ decode 0x21060000 = .ok (.red2 true true) ∧
    decode 0x22010000 = .ok (.vispos .H) ∧ decode 0x23000000 = .ok (.disppos .V) ∧
    decode 0x24000000 = .ok .blkcol ∧ decode 0x25000000 = .ok .cycle := by decide

theorem test_decode_raster_zones :
    decode 0x26000000 = .ok .vis2 ∧ decode 0x27000000 = .ok .disp2 ∧ decode 0x28000000 = .ok .scr2 ∧
    decode 0x29000000 = .ok .vblank ∧ decode 0x2A000000 = .ok .lastvblank := by decide

theorem test_decode_driver :
    decode 0x30000000 = .ok .tick ∧ decode 0x31000000 = .ok .run ∧ decode 0x32000030 = .ok (.linecmp 48) ∧
    decode 0x33000000 = .ok .rdline ∧ decode 0x34000000 = .ok .rdstat ∧ decode 0x01000000 = .ok .reset := by
  decide

/-- The illegal words of 95 section 3, with the reason. -/
theorem test_decode_rejects :
    ([0x00000000, 0x02000000, 0x1C000000, 0x2B000000, 0x35000000, 0xFF000000] : List Word).all
      (fun w => decide (decode w = .error .unassignedOpcode)) = true ∧
    ([0x30010000, 0x30080000, 0x10020005, 0x11000001, 0x12040000, 0x21010000, 0x21000001, 0x20010001,
        0x32020003, 0x01000001, 0x01010000, 0x34040000] : List Word).all
      (fun w => decide (decode w = .error .strayBits)) = true := by decide

/-- The encoder gives the words R55 writes out. -/
theorem test_encode :
    encode (.axadd .H 8) = 0x10010008 ∧ encode (.axred .V true) = 0x12020000 ∧
    encode (.red2 true false) = 0x21020000 ∧ encode (.red2 false true) = 0x21040000 ∧
    encode (.move 1) = 0x20000001 ∧ encode .tick = 0x30000000 ∧ encode (.linecmp 0x30) = 0x32000030 := by decide

/-- A host that moves words as bytes (R38): the word of `AXADD H, 8` in either order. -/
theorem test_decode_bytes :
    decodeBytes .big [0x10, 0x01, 0x00, 0x08, 0xAA] = .ok (.axadd .H 8, [0xAA]) ∧
    decodeBytes .little [0x08, 0x00, 0x01, 0x10] = .ok (.axadd .H 8, []) ∧
    decodeBytes .big [0x10, 0x01, 0x00] = .error .truncated := by decide

theorem test_decodeTableWord :
    decodeTableWord 32 0x10010008 = some (.axadd .H 8) ∧ decodeTableWord 32 0x30010000 = none := by decide

/-! ### The assembler (R55, R56) -/

theorem test_assemble_examples :
    assembleLine "AXADD H, 8".toList = some [.axadd .H 8] ∧
    assembleLine "AXRED V, 1 ; 24 rows".toList = some [.axred .V true] ∧
    assembleLine "RED2 0, 1".toList = some [.red2 false true] ∧
    assembleLine "LINECMP 0x30".toList = some [.linecmp 48] := by decide

theorem test_assemble_pseudo :
    assembleLine "COLS40 true".toList = some [.axred .H false] ∧
    assembleLine "TICKS 3".toList = some [.tick, .tick, .tick] ∧
    assembleLine "NOP".toList = some [.rdstat] := by decide

theorem test_assemble_refuses :
    assembleLine "MOVE 65536".toList = none ∧ assembleLine "AXRED V, 2".toList = none ∧
    assembleLine "MOVE V".toList = none := by decide

/-! ### The geometry invariants (95 section 7.1) -/

theorem test_geomOK_holds :
    geomOK tg = true ∧ geomOK { tg with v := { tgV with r1 := 4, r2 := 3 } } = true ∧
    geomOK Config.resetGeometry = true := by decide

theorem test_geomOK_breaks_per_axis :
    geomOK { tg with v := { tgV with max := 0 } } = false ∧ geomOK { tg with h := { tgH with firstVis := 24 } } = false ∧
    geomOK brokenTg = false ∧ geomOK { tg with v := { tgV with firstDisp := 1 } } = false ∧
    geomOK { tg with v := { tgV with r1 := 6 } } = false := by decide

theorem test_geomOK_breaks_chip :
    geomOK { tg with ppc := 5 } = false ∧ geomOK { tg with ppc := 25 } = false ∧
    geomOK { tg with cpc := 0 } = false := by decide

/-! ### Per-axis commands (95 section 4) -/

/-- 4.1: lands on `max`; `i >= max`; the largest `i`. -/
theorem test_axadd_wraps :
    answer (.axadd .V 4) (at' 12 0) = (.ok, 1) ∧ beamOf (after (.axadd .V 4) (at' 12 0)) = (0, 0) ∧
    beamOf (after (.axadd .V 40) (at' 3 0)) = (11, 0) ∧ beamOf (after (.axadd .H 65535) (at' 0 0)) = (0, 15) := by
  decide

/-- 4.1: a wrap of H does not advance V; `i = 0` does nothing. -/
theorem test_axadd_no_cascade :
    answer (.axadd .H 5) (at' 0 20) = (.ok, 1) ∧ beamOf (after (.axadd .H 5) (at' 0 20)) = (0, 1) ∧
    answer (.axadd .V 0) (at' 3 0) = (.ok, 0) := by decide

/-- 4.1. -/
theorem test_axnext :
    answer (.axnext .H) (at' 0 23) = (.ok, 1) ∧ beamOf (after (.axnext .H) (at' 0 23)) = (0, 0) ∧
    answer (.axnext .V) (at' 14 0) = (.ok, 0) ∧ beamOf (after (.axnext .V) (at' 14 0)) = (15, 0) := by decide

/-- 4.5: the flag of one axis, read back by AXRDRED and RDSTAT; 2.2: the screen zone moves at once. -/
theorem test_axred :
    answer .rdstat (after (.axred .V true) (at' 0 0)) = (.ok, 0x21) ∧
    answer (.axscr .H) (after (.axred .H true) (at' 0 8)) = (.ok, 0) ∧
    answer (.axscr .H) (after (.axred .H false) (after (.axred .H true) (at' 0 8))) = (.ok, 1) := by decide

/-- 4.5. -/
theorem test_axrdred :
    answer (.axrdred .V) (after (.axred .V true) (at' 0 0)) = (.ok, 1) ∧
    answer (.axrdred .H) (after (.axred .V true) (at' 0 0)) = (.ok, 0) := by decide

/-- 4.2. -/
theorem test_axb0 :
    answer (.axb0 .H 0) (at' 0 0) = (.ok, 4) ∧ answer (.axb0 .H 19) (at' 0 0) = (.ok, 23) ∧
    answer (.axb0 .H 65535) (at' 0 0) = (.ok, 19) ∧ answer (.axb0 .V 16) (at' 0 0) = (.ok, 0) := by decide

/-- 4.4: the absolute position wraps inside the line. -/
theorem test_axpos :
    answer (.axpos .H) (at' 0 0) = (.ok, 20) ∧ answer (.axpos .H) (at' 0 3) = (.ok, 23) ∧
    answer (.axpos .H) (at' 0 4) = (.ok, 0) ∧ answer (.axpos .V) (at' 14 8) = (.ok, 14) := by decide

/-- R64's example: after `AXADD H, 30` from reset. -/
theorem test_axpos0 : answer (.axpos0 .H) (after (.axadd .H 30) (at' 0 0)) = (.ok, 6) := by decide

/-- 4.3, 4.4: both edges of the visible zone. -/
theorem test_axblank :
    answer (.axblank .V) (at' 1 0) = (.ok, 1) ∧ answer (.axblank .V) (at' 2 0) = (.ok, 0) ∧
    answer (.axblank .H) (at' 0 21) = (.ok, 0) ∧ answer (.axblank .H) (at' 0 22) = (.ok, 1) := by decide

/-- 4.3: the leading blank zone answers 0. -/
theorem test_axlblank :
    answer (.axlblank .V) (at' 1 0) = (.ok, 0) ∧ answer (.axlblank .V) (at' 13 0) = (.ok, 0) ∧
    answer (.axlblank .V) (at' 14 0) = (.ok, 1) := by decide

/-- 4.4. -/
theorem test_axvis :
    answer (.axvis .H) (at' 0 1) = (.ok, 0) ∧ answer (.axvis .H) (at' 0 2) = (.ok, 1) ∧
    answer (.axvis .H) (at' 0 21) = (.ok, 1) ∧ answer (.axvis .H) (at' 0 22) = (.ok, 0) := by decide

/-- 4.3, 4.4: the display zone does not depend on the reduction. -/
theorem test_axdisp :
    answer (.axdisp .H) (atRed 0 6 true true) = (.ok, 1) ∧ answer (.axdisp .H) (at' 0 18) = (.ok, 0) ∧
    answer (.axdisp .V) (at' 3 0) = (.ok, 0) := by decide

/-- 4.3, 4.4: 5..9 with V reduced, 9..15 with H reduced, 6..17 without. -/
theorem test_axscr :
    answer (.axscr .V) (atRed 4 0 true false) = (.ok, 0) ∧ answer (.axscr .V) (atRed 5 0 true false) = (.ok, 1) ∧
    answer (.axscr .V) (atRed 10 0 true false) = (.ok, 0) ∧ answer (.axscr .H) (atRed 0 16 false true) = (.ok, 0) ∧
    answer (.axscr .H) (at' 0 17) = (.ok, 1) := by decide

/-! ### Two-axis commands (95 section 5) -/

/-- 5.1: no wrap; a line wrap; a whole line; the frame wrap. -/
theorem test_move :
    beamOf (after (.move 1) (at' 3 8)) = (3, 16) ∧ answer (.move 1) (at' 3 16) = (.ok, 1) ∧
    beamOf (after (.move 1) (at' 3 16)) = (4, 0) ∧ beamOf (after (.move 3) (at' 3 8)) = (4, 8) ∧
    beamOf (after (.move 1) (at' 15 16)) = (0, 0) := by decide

/-- 5.1: OVERSTEP leaves the beam and sets `err`. -/
theorem test_move_oversteps :
    answer (.move 4) (at' 3 8) = (.overstep, 0) ∧ beamOf (after (.move 4) (at' 3 8)) = (3, 8) ∧
    (after (.move 4) (at' 3 8)).trk.err = true ∧ answer (.move 65535) (at' 3 8) = (.overstep, 0) := by decide

/-- R76's example; 5.2 at (4, 9) and (5, 9) with both reduced. -/
theorem test_red2 :
    answer (.axrdred .V) (after (.red2 true false) (at' 0 0)) = (.ok, 1) ∧
    answer (.axrdred .H) (after (.red2 true false) (at' 0 0)) = (.ok, 0) ∧
    answer .scr2 (after (.red2 true true) (at' 4 9)) = (.ok, 0) ∧
    answer .scr2 (after (.red2 true true) (at' 5 9)) = (.ok, 1) := by decide

/-- 5.3. -/
theorem test_vispos :
    answer (.vispos .H) (at' 0 0) = (.ok, 0xFFFFFFFE) ∧ answer (.vispos .H) (at' 0 8) = (.ok, 6) := by decide

/-- 5.3. -/
theorem test_disppos :
    answer (.disppos .V) (at' 0 0) = (.ok, 0xFFFFFFFC) ∧ answer (.disppos .H) (at' 0 23) = (.ok, 17) := by decide

/-- 4.4: the floor of a negative column. -/
theorem test_blkcol :
    answer .blkcol (at' 0 0) = (.ok, 0xFFFFFFF8) ∧ answer .blkcol (at' 0 9) = (.ok, 0) ∧
    answer .blkcol (at' 0 10) = (.ok, 8) ∧ answer .blkcol (at' 0 18) = (.ok, 16) := by decide

/-- 4.4. -/
theorem test_cycle :
    answer .cycle (at' 0 7) = (.ok, 0) ∧ answer .cycle (at' 0 8) = (.ok, 1) ∧ answer .cycle (at' 0 23) = (.ok, 2) := by
  decide

/-- 5.2. -/
theorem test_vis2 : answer .vis2 (at' 2 8) = (.ok, 1) ∧ answer .vis2 (at' 2 0) = (.ok, 0) := by decide

/-- 5.2. -/
theorem test_disp2 : answer .disp2 (at' 4 16) = (.ok, 1) ∧ answer .disp2 (at' 3 16) = (.ok, 0) := by decide

/-- 5.2. -/
theorem test_scr2 :
    answer .scr2 (atRed 5 16 false true) = (.ok, 0) ∧ answer .scr2 (at' 5 16) = (.ok, 1) := by decide

/-- 5.2: the horizontal position does not matter. -/
theorem test_vblank :
    answer .vblank (at' 0 8) = (.ok, 1) ∧ answer .vblank (at' 2 0) = (.ok, 0) ∧ answer .vblank (at' 14 8) = (.ok, 1) := by
  decide

/-- 5.2. -/
theorem test_lastvblank : answer .lastvblank (at' 14 8) = (.ok, 1) ∧ answer .lastvblank (at' 0 8) = (.ok, 0) := by
  decide

/-! ### The cycle driver (95 section 6) -/

/-- P1, TICK 5: the TICK that enters the last VBlank zone, with its events. -/
theorem test_tick_enters_vblank :
    answer .tick (at' 13 16) = (.ok, 0x17) ∧ beamOf (after .tick (at' 13 16)) = (14, 0) ∧
    eventsOf (after .tick (at' 13 16)).evt =
      [.lineStart 13 13, .cycleStart 13 13 16 2, .drawWindow ⟨14, 11, 8, 10, 9, false, false, false, true⟩,
       .irqEval, .advance true false, .frameReady 14] := by decide

/-- 6.1, TICK 47: the frame wrap re-arms the guard. -/
theorem test_tick_wraps_the_frame :
    let s := { at' 15 16 with trk := { (at' 15 16).trk with newLine := false, vblankSeen := true } }
    answer .tick s = (.ok, 0x0C) ∧ beamOf (after .tick s) = (0, 0) ∧ (after .tick s).trk.newLine = true ∧
    (after .tick s).trk.vblankSeen = false ∧
    eventsOf (after .tick s).evt = [.cycleStart 15 15 16 2, .irqEval, .advance true true] := by decide

/-- P3: one TG frame through RUN. -/
theorem test_run_one_frame :
    let s := afterRun 148 (afterRun 100 (at' 0 0))
    s.resp = 0x30 ∧ beamOf s = (0, 0) ∧ frameReadyCount s.evt = 1 ∧ answer .rdstat s = (.ok, 5) := by
  set_option maxRecDepth 8000 in decide

/-- 6.3: the baseline and a partial line; the counter wraps; CPC = 2. -/
theorem test_run_partial_line_and_wrap :
    answer .run { at' 0 0 with cpuClk := 100 } = (.ok, 0) ∧
    (afterRun 105 (afterRun 100 (at' 0 0))).resp = 5 ∧
    beamOf (afterRun 105 (afterRun 100 (at' 0 0))) = (1, 16) ∧
    (afterRun 105 (afterRun 100 (at' 0 0))).trk.lineReg = 1 ∧
    beamOf (afterRun 0x10 (afterRun 0xFFFFFFF8 (at' 0 0))) = (8, 0) ∧
    beamOf (afterRun 10 (afterRun 0 (State.powerOn { tg with cpc := 2 }))) = (6, 16) := by
  set_option maxRecDepth 8000 in decide

/-- 6.4. -/
theorem test_linecmp :
    answer (.linecmp 3) (at' 3 0) = (.ok, 1) ∧ answer (.linecmp 4) (at' 3 0) = (.ok, 0) ∧
    answer (.linecmp 19) (at' 3 0) = (.ok, 0) := by decide

/-- 6.4: after three TICKs RDLINE lags and AXPOS V is live. -/
theorem test_rdline :
    answer .rdline (after .tick (after .tick (after .tick (at' 0 0)))) = (.ok, 0) ∧
    answer (.axpos .V) (after .tick (after .tick (after .tick (at' 0 0)))) = (.ok, 1) := by decide

/-- 6.4. -/
theorem test_rdstat :
    answer .rdstat (at' 0 0) = (.ok, 1) ∧ answer .rdstat (afterRun 0 (at' 0 0)) = (.ok, 5) ∧
    answer .rdstat (after .tick (at' 13 16)) = (.ok, 3) ∧ answer .rdstat (after (.move 4) (at' 0 0)) = (.ok, 9) := by
  decide

/-! ### Reset, faults and the step (95 sections 3 and 7, R115) -/

/-- R115's example, from a state that is not the reset state. -/
theorem test_reset :
    let s := after .reset (after .tick (atRed 13 16 true true))
    answer .rdstat s = (.ok, 1) ∧ answer (.axpos .H) s = (.ok, 20) ∧ answer .rdline s = (.ok, 0) ∧ s.evt = [] := by
  decide

/-- 7.2: RESET of a geometry that breaks g3. -/
theorem test_reset_faults :
    answer .reset (State.powerOn brokenTg) = (.geometryInvalid, 0) ∧
    (after .reset (State.powerOn brokenTg)).trk.faulted = true ∧
    (after .reset (State.powerOn brokenTg)).trk.err = true := by decide

/-- Section 3: an illegal word answers 1, and a following RDSTAT reads 9. -/
theorem test_step_illegal_words :
    ([0x00000000, 0x1C000000, 0x30010000, 0x10020005, 0x01000001] : List Word).all
      (fun w => decide ((steps 1 (presenting tg [w, 0x34000000])).rcode = .illegalCommand ∧
        (steps 2 (presenting tg [w, 0x34000000])).resp = 9)) = true := by
  set_option maxRecDepth 4000 in decide

/-- 7.3 and 7.2: the order of the faults. -/
theorem test_step_fault_priority :
    (steps 1 (presenting tg [0x20080004])).rcode = .illegalCommand ∧
    (steps 1 (presenting tg [0x20000004])).rcode = .overstep ∧
    (steps 1 (presenting brokenTg [0x20080004])).rcode = .geometryInvalid := by decide

/-- P7: a faulted tracker refuses TICK and RDSTAT, and a second RESET. -/
theorem test_step_faulted_is_stuck :
    (steps 2 (presenting brokenTg [0x01000000, 0x30000000])).rcode = .geometryInvalid ∧
    beamOf (steps 2 (presenting brokenTg [0x01000000, 0x30000000])) = (0, 0) ∧
    (steps 1 (presenting brokenTg [0x34000000])).rcode = .geometryInvalid ∧
    (steps 2 (presenting brokenTg [0x01000000, 0x01000000])).rcode = .geometryInvalid := by decide

/-- R88's example, the first command after reset, through the step: `nl` alone. -/
theorem test_step_withFetchWord :
    (steps 1 ((State.powerOn tg).withFetchWord 32 0x30000000)).resp = 1 ∧
    beamOf (steps 1 ((State.powerOn tg).withFetchWord 32 0x30000000)) = (0, 8) := by decide

/-! ### Witnesses: for every statement with hypotheses, a concrete state and operands that meet them all -/

/-- A state that is faulted, for the first hypothesis of `FaultsAsStated`. -/
abbrev FaultedWitness : Prop := (State.powerOn brokenTg).trk.faulted = true

/-- A presented word of an opcode with a 1 in an unused field, for the second. -/
abbrev StrayWitness (opc : BitVec 8) (unused w : Word) : Prop :=
  (presenting tg [w]).inputs = [{ cmd := w, cpuClk := 0 }] ∧ (presenting tg [w]).trk.faulted = false ∧
  w.extractLsb' 24 8 = opc ∧ w &&& unused ≠ 0

/-- A presented word that decodes to nothing, on a tracker that is not faulted. -/
theorem witness_illegal : (presenting tg [0x30010000]).inputs = [{ cmd := 0x30010000, cpuClk := 0 }] ∧
    (presenting tg [0x30010000]).trk.faulted = false ∧ ∀ i, decode 0x30010000 ≠ .ok i := by
  refine ⟨rfl, rfl, fun i h => ?_⟩
  have e : decode 0x30010000 = .error .strayBits := by decide
  rw [e] at h
  cases h

theorem witness_EncodeOfDecodedIsTheWord : decode 0x10010008 = .ok (.axadd .H 8) := by decide

theorem witness_AtMostOneRowMatches : ∃ r ∈ opMap, (0x20000001 : Word) &&& r.mask = r.value ∧ r.mnemonic = "MOVE" := by
  decide

theorem witness_IllegalWordsAreExactlyThoseListed :
    (presenting tg [0x30010000]).inputs = [{ cmd := 0x30010000, cpuClk := 0 }] ∧
    (presenting tg [0x30010000]).trk.faulted = false ∧ ∀ i, decode 0x30010000 ≠ .ok i := witness_illegal

theorem witness_WordOfItsBytesIsTheWord : decode 0x21040000 = .ok (.red2 false true) := by decide

theorem witness_StepRunsThePresentedCommand :
    (presenting tg [0x30000000]).inputs = [{ cmd := 0x30000000, cpuClk := 0 }] ∧ decode 0x30000000 = .ok .tick := by
  decide

/-- Clause 1: a faulted tracker and a word that is not RESET. -/
theorem witness_StepFollowsTheDecodeProcedure_faulted :
    (presenting brokenTg [0x30000000]).inputs = [{ cmd := 0x30000000, cpuClk := 0 }] ∧
    (presenting brokenTg [0x30000000]).trk.faulted = true ∧ (0x30000000 : Word) ≠ 0x01000000 := by decide

/-- Clause 2: no row selects the word. -/
theorem witness_StepFollowsTheDecodeProcedure_noRow :
    (presenting tg [0x30010000]).trk.faulted = false ∧
    opMap.all (fun r => decide ((0x30010000 : Word) &&& r.mask ≠ r.value)) = true := by decide

/-- Clause 3: a row selects the word, on a faulted tracker too where the word is RESET. -/
theorem witness_StepFollowsTheDecodeProcedure_row :
    (presenting brokenTg [0x01000000]).trk.faulted = true ∧
    opMap.any (fun r => decide ((0x01000000 : Word) &&& r.mask = r.value)) = true := by decide

/-- Clauses 1 and 2. -/
theorem witness_FaultPriority_faulted_and_illegal :
    (presenting brokenTg [0x20080004]).trk.faulted = true ∧ (0x20080004 : Word) ≠ 0x01000000 ∧
    (presenting tg [0x30010000]).trk.faulted = false ∧ ∀ i, decode 0x30010000 ≠ .ok i :=
  ⟨by decide, by decide, witness_illegal.2⟩

/-- Clauses 3 and 4: a malformed MOVE; a MOVE one chip cycle above a whole line. -/
theorem witness_FaultPriority_move :
    (presenting tg [0x20080004]).trk.faulted = false ∧ (0x20080004 : Word).extractLsb' 24 8 = 0x20 ∧
    (0x20080004 : Word).extractLsb' 16 8 ≠ 0 ∧ (0x20000004 : Word) = fieldsWord 0x20 0 0 0 4 ∧
    tg.h.max.toNat < (4 : Pos).toNat * tg.ppc.toNat := by decide

theorem witness_TrackerHoldsItsStateBetweenCommands : State.reset.inputs = [] := rfl

theorem witness_AxaddAdvancesOneAxis :
    Ready (at' 0 23) ∧ FaultedWitness ∧ StrayWitness 0x10 0x00FE0000 0x10020005 := by decide

theorem witness_AxnextAdvancesByOne :
    Ready (at' 15 0) ∧ FaultedWitness ∧ StrayWitness 0x11 0x00FEFFFF 0x11000001 := by decide

/-- The first clause, the repeat, and the AXSCR that follows. -/
theorem witness_AxredSetsTheReduction :
    Ready (at' 0 8) ∧ (atRed 0 8 false true).trk.faulted = false ∧ ((atRed 0 8 false true).trk.axis .H).reduced = true ∧
    exec (.axred .H true) (at' 0 8) = .next (after (.axred .H true) (at' 0 8)) ∧
    FaultedWitness ∧ StrayWitness 0x12 0x00FCFFFF 0x12040000 :=
  ⟨by decide, by decide, by decide, rfl, by decide, by decide⟩

/-- The values `first` and `last` of the two last clauses. -/
theorem witness_Axb0AnswersTheBase0Form :
    Ready (at' 3 8) ∧ (20 : Pos) = ((at' 3 8).geom.axis .H).first ∧ (19 : Pos) = ((at' 3 8).geom.axis .H).last ∧
    FaultedWitness ∧ StrayWitness 0x13 0x00FE0000 0x13040000 := by decide

theorem witness_AxposAnswersTheAbsolutePosition :
    Ready (at' 0 4) ∧ FaultedWitness ∧ StrayWitness 0x14 0x00FEFFFF 0x14000001 := by decide

theorem witness_Axpos0AnswersTheBase0Position :
    Ready (at' 0 23) ∧ FaultedWitness ∧ StrayWitness 0x15 0x00FEFFFF 0x15080000 := by decide

theorem witness_BlankQueriesAnswerTheBlankZones :
    Ready (at' 1 22) ∧ FaultedWitness ∧ StrayWitness 0x16 0x00FEFFFF 0x16000001 ∧
    StrayWitness 0x17 0x00FEFFFF 0x17000001 := by decide

theorem witness_VisibleAndDisplayQueriesAnswerTheirZones :
    Ready (at' 2 21) ∧ FaultedWitness ∧ StrayWitness 0x18 0x00FEFFFF 0x18020000 ∧
    StrayWitness 0x19 0x00FEFFFF 0x19000001 := by decide

theorem witness_ScreenQueryAnswersTheScreenZone :
    Ready (atRed 4 17 true false) ∧ ((atRed 4 17 true false).trk.axis .H).reduced = false ∧ FaultedWitness ∧
    StrayWitness 0x1A 0x00FEFFFF 0x1A000001 := by decide

theorem witness_AxrdredAnswersTheReduction :
    (atRed 0 0 true false).trk.faulted = false ∧ geomOK (atRed 0 0 true false).geom = true ∧
    exec .reset (atRed 0 0 true false) = .next (after .reset (atRed 0 0 true false)) ∧ FaultedWitness ∧
    StrayWitness 0x1B 0x00FEFFFF 0x1B000001 := ⟨by decide, by decide, rfl, by decide, by decide⟩

theorem witness_NextsOfAWholeTurnWrapExactlyOnce : Ready (at' 5 0) ∧ 15 < ((at' 5 0).geom.axis .V).max.toNat := by
  decide

theorem witness_ReductionIsIdempotentAndReversible :
    let s := at' 0 8
    let t1 := after (.axred .H true) s
    let t2 := after (.axred .H true) t1
    Ready s ∧ (s.trk.axis .H).reduced = false ∧ exec (.axred .H true) s = .next t1 ∧
    exec (.axred .H true) t1 = .next t2 ∧ exec (.axred .H false) t2 = .next (after (.axred .H false) t2) ∧
    23 < (s.geom.axis .H).max.toNat := ⟨by decide, by decide, rfl, rfl, rfl, by decide⟩

/-- The premise of each implication: in the screen zone, in the display zone, in the last blank zone. -/
theorem witness_ZonesAreNested :
    Ready (atRed 5 23 true true) ∧ inScreen tgV (atRed 5 23 true true).trk.v = true ∧
    inDisplay tgV (atRed 5 23 true true).trk.v = true ∧ inLastBlank tgH (atRed 5 23 true true).trk.h = true := by
  decide

theorem witness_AbsolutePositionInvertsBase0 :
    tgH.first.toNat < tgH.max.toNat ∧ (at' 0 23).trk.h.p0.toNat < tgH.max.toNat ∧ (23 : Pos).toNat < tgH.max.toNat ∧
    Ready (at' 15 23) := by decide

theorem witness_LastPositionPrecedesTheFirst :
    tgH.first.toNat < tgH.max.toNat ∧ tgH.last.toNat < tgH.max.toNat ∧
    base0 ((State.powerOn brokenTg).geom.axis .V) ((State.powerOn brokenTg).geom.axis .V).last ≠
      (((State.powerOn brokenTg).geom.axis .V).max.toNat : Int) - 1 := by decide

/-- Clause by clause at the bound: one line is not OVERSTEP, one chip cycle more is; no wrap below
`max`, a wrap exactly at it. -/
theorem witness_MoveAdvancesTheBeamWithTheCascade :
    (exec (.move 4) (at' 3 8) = .next (after (.move 4) (at' 3 8)) ∧ (after (.move 4) (at' 3 8)).rcode = .overstep) ∧
    ((at' 3 8).trk.faulted = false ∧ (at' 3 8).geom.h.max.toNat < (4 : Pos).toNat * (at' 3 8).geom.ppc.toNat) ∧
    (Ready (at' 3 8) ∧ (1 : Pos).toNat * (at' 3 8).geom.ppc.toNat ≤ (at' 3 8).geom.h.max.toNat ∧
      beam (at' 3 8) .H + (1 : Pos).toNat * (at' 3 8).geom.ppc.toNat < (at' 3 8).geom.h.max.toNat) ∧
    (Ready (at' 3 16) ∧ (1 : Pos).toNat * (at' 3 16).geom.ppc.toNat ≤ (at' 3 16).geom.h.max.toNat ∧
      (at' 3 16).geom.h.max.toNat ≤ beam (at' 3 16) .H + (1 : Pos).toNat * (at' 3 16).geom.ppc.toNat) ∧
    FaultedWitness ∧ StrayWitness 0x20 0x00FF0000 0x20010001 :=
  ⟨⟨rfl, by decide⟩, by decide, by decide, by decide, by decide, by decide⟩

theorem witness_MoveOfOneLineReturnsToTheColumn :
    Ready (at' 3 8) ∧ (3 : Pos).toNat * (at' 3 8).geom.ppc.toNat = (at' 3 8).geom.h.max.toNat := by decide

theorem witness_Red2SetsBothReductions :
    (at' 4 9).trk.faulted = false ∧ FaultedWitness ∧ StrayWitness 0x21 0x00F9FFFF 0x21010000 := by decide

theorem witness_CoordinateQueriesAnswerSignedOffsets :
    Ready (at' 0 0) ∧ FaultedWitness ∧ StrayWitness 0x22 0x00FEFFFF 0x22000001 ∧
    StrayWitness 0x23 0x00FEFFFF 0x23000001 := by decide

theorem witness_BlkcolAnswersTheFlooredColumn :
    Ready (at' 0 1) ∧ FaultedWitness ∧ StrayWitness 0x24 0x00FFFFFF 0x24010000 := by decide

theorem witness_CycleAnswersTheChipCycle :
    Ready (at' 0 23) ∧ FaultedWitness ∧ StrayWitness 0x25 0x00FFFFFF 0x25010000 := by decide

theorem witness_ZoneQueriesOfTheBeamAreConjunctions :
    Ready (atRed 5 9 true true) ∧ FaultedWitness ∧ StrayWitness 0x26 0x00FFFFFF 0x26010000 ∧
    StrayWitness 0x27 0x00FFFFFF 0x27010000 ∧ StrayWitness 0x28 0x00FFFFFF 0x28000001 := by decide

theorem witness_VblankQueriesReadTheVerticalAxis :
    Ready (at' 14 8) ∧ FaultedWitness ∧ StrayWitness 0x29 0x00FFFFFF 0x29010000 ∧
    StrayWitness 0x2A 0x00FFFFFF 0x2A010000 := by decide

theorem witness_TickRunsOneChipCycle :
    Ready (at' 13 16) ∧ FaultedWitness ∧ StrayWitness 0x30 0x00FFFFFF 0x30010000 := by decide

theorem witness_TickMovesTheBeamAsMoveOne : Ready (at' 15 16) := by decide

theorem witness_TickEventsComeInPhaseOrder :
    (at' 13 16).trk.faulted = false ∧ exec .tick (at' 13 16) = .next (after .tick (at' 13 16)) := ⟨by decide, rfl⟩

/-- The baseline clause, and the two clauses of a RUN in LOOP. -/
theorem witness_RunFollowsTheCpuCount :
    ((at' 0 0).trk.faulted = false ∧ (at' 0 0).trk.run = .idle) ∧
    (Ready (afterRun 100 (at' 0 0)) ∧ (afterRun 100 (at' 0 0)).trk.run = .loop ∧
      exec .run (afterRun 100 (at' 0 0)) = .next (after .run (afterRun 100 (at' 0 0)))) ∧
    FaultedWitness ∧ StrayWitness 0x31 0x00FFFFFF 0x31010000 :=
  ⟨by decide, ⟨by decide, by decide, rfl⟩, by decide, by decide⟩

/-- A count sampled inside a wrap of the CPU counter. -/
theorem witness_RunsAddUpAcrossASampledCount :
    let s := afterRun 0xFFFFFFFE (at' 0 0)
    let s1 := afterRun 0xFFFFFFFF s
    Ready s ∧ s.trk.run = .loop ∧
    ((0xFFFFFFFF : Clk) - s.trk.lastCPU).toNat + ((2 : Clk) - 0xFFFFFFFF).toNat = ((2 : Clk) - s.trk.lastCPU).toNat ∧
    exec .run { s with cpuClk := 0xFFFFFFFF } = .next s1 ∧ exec .run { s1 with cpuClk := 2 } = .next (afterRun 2 s1) ∧
    exec .run { s with cpuClk := 2 } = .next (afterRun 2 s) :=
  ⟨by decide, by decide, by decide, rfl, rfl, rfl⟩

theorem witness_OneFrameReturnsToItsStart :
    let s := { afterRun 100 (at' 0 0) with cpuClk := 148 }
    Ready s ∧ s.trk.run = .loop ∧ beam s .V = 0 ∧ beam s .H = 0 ∧ s.trk.newLine = true ∧ s.trk.vblankSeen = false ∧
    (s.cpuClk - s.trk.lastCPU).toNat * s.geom.cpc.toNat = s.geom.v.max.toNat * (s.geom.h.max.toNat / s.geom.ppc.toNat) := by
  decide

theorem witness_PalFrameFiresOnceAndEndsAtLineZero :
    State.reset.geom = Config.vicIIPal Config.palxOpen ∧ geomOK State.reset.geom = true ∧
    Config.palxOpen.vLastVis.toNat < 311 := by decide

/-- The live line at a compare value, and the least value that never matches. -/
theorem witness_LinecmpComparesTheLiveLine :
    Ready (at' 15 0) ∧ (at' 15 0).geom.v.max.toNat ≤ (16 : Pos).toNat ∧ FaultedWitness ∧
    StrayWitness 0x32 0x00FF0000 0x32020003 := by decide

theorem witness_RdlineAnswersTheWrittenBackLine :
    (at' 3 16).trk.faulted = false ∧ exec .tick (at' 3 16) = .next (after .tick (at' 3 16)) ∧ FaultedWitness ∧
    StrayWitness 0x33 0x00FFFFFF 0x33010000 := ⟨by decide, rfl, by decide, by decide⟩

theorem witness_RdstatAnswersTheStatusWord :
    (atRed 0 0 true true).trk.faulted = false ∧ FaultedWitness ∧ StrayWitness 0x34 0x00FFFFFF 0x34040000 := by decide

/-- A RESET word with another bit set, on either tracker; the exact word; a valid and an invalid geometry. -/
theorem witness_ResetRebuildsTheTracker :
    ((presenting tg [0x01000001]).inputs = [{ cmd := 0x01000001, cpuClk := 0 }] ∧
      (0x01000001 : Word).extractLsb' 24 8 = 0x01 ∧ (0x01000001 : Word) ≠ 0x01000000) ∧
    (presenting brokenTg [0x01000000]).inputs = [{ cmd := 0x01000000, cpuClk := 0 }] ∧
    geomOK (at' 13 16).geom = true ∧ geomOK (State.powerOn brokenTg).geom = false ∧
    0 < (State.powerOn brokenTg).geom.v.max.toNat := by decide

theorem witness_BootLeavesTheLoopEntered : geomOK (at' 13 16).geom = true := by decide

theorem witness_EveryStepKeepsSoundness :
    Inv (presenting tg [0x30000000]) ∧
    step (presenting tg [0x30000000]) = .next (steps 1 (presenting tg [0x30000000])) := ⟨by decide, rfl⟩

theorem witness_NoStepChangesTheGeometry :
    step (presenting tg [0x01000000]) = .next (steps 1 (presenting tg [0x01000000])) := rfl

/-- For each field a command that changes it: the beam, the reductions, the latch, the guard; then the
loop's fields; then `err` and `faulted`. -/
theorem witness_OnlyTheListedCommandsWriteEachField :
    ((after .tick (at' 13 16)).trk.v.p0 ≠ (at' 13 16).trk.v.p0 ∧ (after .tick (at' 13 16)).trk.h.p0 ≠ (at' 13 16).trk.h.p0) ∧
    ((after (.red2 true true) (at' 0 0)).trk.v.reduced ≠ (at' 0 0).trk.v.reduced ∧
      (after (.red2 true true) (at' 0 0)).trk.h.reduced ≠ (at' 0 0).trk.h.reduced) ∧
    ((after .tick (at' 0 0)).trk.newLine ≠ (at' 0 0).trk.newLine ∧
      (after .tick (at' 13 16)).trk.vblankSeen ≠ (at' 13 16).trk.vblankSeen) ∧
    exec .tick (at' 13 16) = .next (after .tick (at' 13 16)) := ⟨by decide, by decide, by decide, rfl⟩

theorem witness_OnlyTheListedCommandsWriteEachField_loop :
    ((afterRun 7 (at' 0 0)).trk.run ≠ (at' 0 0).trk.run ∧ (afterRun 7 (at' 0 0)).trk.lastCPU ≠ (at' 0 0).trk.lastCPU) ∧
    (afterRun 10 (afterRun 7 (at' 0 0))).trk.lineReg ≠ (afterRun 7 (at' 0 0)).trk.lineReg ∧
    (after (.move 4) (at' 0 0)).trk.err ≠ (at' 0 0).trk.err ∧
    (after .reset { at' 0 0 with geom := brokenTg }).trk.faulted ≠ (at' 0 0).trk.faulted := by decide

theorem witness_FaultedTrackerIsStuck :
    Inv (presenting brokenTg [0x30000000]) ∧ (presenting brokenTg [0x30000000]).trk.faulted = true ∧
    step (presenting brokenTg [0x30000000]) = .next (steps 1 (presenting brokenTg [0x30000000])) ∧
    (presenting brokenTg [0x30000000]).inputs ≠ [] := ⟨by decide, by decide, rfl, by decide⟩

/-- A fault; a command after it; a RESET after it. -/
theorem witness_ErrorFlagIsStickyUntilReset :
    (steps 1 (presenting tg [0x20000004])).rcode ≠ .ok ∧
    ((steps 1 (presenting tg [0x20000004, 0x30000000])).trk.err = true ∧ (0x30000000 : Word) ≠ 0x01000000 ∧
      (steps 1 (presenting tg [0x20000004, 0x30000000])).inputs = [{ cmd := 0x30000000, cpuClk := 0 }]) ∧
    (steps 1 (presenting tg [0x20000004, 0x01000000])).inputs = [{ cmd := 0x01000000, cpuClk := 0 }] ∧
    geomOK (presenting tg []).geom = true ∧
    step (presenting tg [0x20000004]) = .next (steps 1 (presenting tg [0x20000004])) :=
  ⟨by decide, by decide, by decide, by decide, rfl⟩

theorem witness_FaultsArePrecise :
    (presenting tg [0x20000004]).inputs = [{ cmd := 0x20000004, cpuClk := 0 }] ∧ (0x20000004 : Word) ≠ 0x01000000 ∧
    step (presenting tg [0x20000004]) = .next (steps 1 (presenting tg [0x20000004])) ∧
    (steps 1 (presenting tg [0x20000004])).rcode ≠ .ok := ⟨by decide, by decide, rfl, by decide⟩

theorem witness_QueriesAreIdempotent :
    isQuery .rdstat = true ∧ (at' 13 16).trk.faulted = false ∧
    exec .rdstat (at' 13 16) = .next (after .rdstat (at' 13 16)) := ⟨by decide, by decide, rfl⟩

/-- 6.2: `AXADD V, 14` from reset, then the TICK that fires. -/
theorem witness_BypassCommandsLeaveTheLatches :
    let t := after (.axadd .V 14) (at' 0 0)
    bypassesLoop (.axadd .V 14) = true ∧ Ready (at' 0 0) ∧ exec (.axadd .V 14) (at' 0 0) = .next t ∧
    exec .tick t = .next (after .tick t) ∧ lastBlankAt (after .tick t).geom.v (beam (after .tick t) .V) = true ∧
    (at' 0 0).trk.vblankSeen = false ∧ (after .tick t).resp = 0x11 :=
  ⟨by decide, by decide, rfl, rfl, by decide, by decide, by decide⟩

end Sys2Proof.Tests
end

-- The state family: O51 to O54, O56, O27 and O28.
section
/-! PROOFS. The state (10_state.md): what a command can leave, said once by `Writes`; the record a tracker with a
valid geometry keeps, `SoundRecord`; and the rules R12, R14, R16 to R18, R26 to R28 settled from them. -/

namespace Sys2Proof.Machine

/-! ### What a command leaves -/

/-- `Writes s i trk`: the command `i`, when it completes in `s`, may leave the record `trk`. -/
inductive Writes (s : State) : Instr → Tracker → Prop
  | query {i : Instr} (hq : isQuery i = true) : Writes s i s.trk
  | advance {i : Instr} (a : Axis) (k : Nat) (hi : (∃ n, i = .axadd a n) ∨ i = .axnext a) :
      Writes s i (s.trk.setP0 a (Machine.advance (s.geom.axis a) (s.trk.axis a) k).1)
  | reduce (a : Axis) (b : Bool) : Writes s (.axred a b) (s.trk.setReduced a b)
  | reduceBoth (v h : Bool) : Writes s (.red2 v h) ((s.trk.setReduced .V v).setReduced .H h)
  | move (n : Pos) (k : Nat) : Writes s (.move n) (advanceBeam s.geom s.trk k).trk
  | tick : Writes s .tick (chipCycle s.geom s.trk).trk
  | baseline : Writes s .run (runBaseline s).trk
  | loop (hr : s.trk.run = .loop) : Writes s .run (runLoop s).trk

/-- `exec_of_ok` as one of three outcomes, on any tracker: a fault, RESET's rebuilt record, or a completed
command with the record `Writes` allows. -/
theorem exec_outcome {i : Instr} {s t : State} (h : exec i s = .next t) :
    (∃ c, c ≠ .ok ∧ i ≠ .reset ∧ t = raiseFault s c) ∨
    (i = .reset ∧ t = { s with trk := resetTracker s.geom, resp := 0, rcode := resetCode s.geom, evt := [] }) ∨
    (s.trk.faulted = false ∧ i ≠ .reset ∧ ∃ trk r ev, t = complete s trk r ev ∧ Writes s i trk) := by
  by_cases hi : i = .reset
  · subst hi
    exact .inr (.inl ⟨rfl, (Host.Outcome.next.inj h).symm⟩)
  cases hf : s.trk.faulted with
  | true =>
    rw [exec_of_faulted hf hi] at h
    exact .inl ⟨.geometryInvalid, by decide, hi, (Host.Outcome.next.inj h).symm⟩
  | false =>
    obtain ⟨ht, -⟩ | ⟨trk, r, ev, ht, hw⟩ := exec_of_ok hf hi h
    · exact .inl ⟨.overstep, by decide, hi, ht⟩
    · refine .inr (.inr ⟨rfl, hi, trk, r, ev, ht, ?_⟩)
      obtain ⟨hq, rfl, -⟩ | ⟨a, k, hax, -, rfl⟩ | ⟨a, b, rfl, -, rfl⟩ | ⟨v, b, rfl, -, rfl⟩ |
        ⟨n, k, rfl, -, rfl⟩ | ⟨rfl, rfl, -⟩ | ⟨rfl, -, -, rfl⟩ | ⟨rfl, hr, rfl⟩ := hw
      · exact .query hq
      · exact .advance a k hax
      · exact .reduce a b
      · exact .reduceBoth v b
      · exact .move n k
      · exact .tick
      · exact .baseline
      · exact .loop hr

theorem exec_geom {i : Instr} {s t : State} (h : exec i s = .next t) : t.geom = s.geom := by
  obtain ⟨c, -, -, rfl⟩ | ⟨-, rfl⟩ | ⟨-, -, trk, r, ev, rfl, -⟩ := exec_outcome h <;> rfl

/-- What a RUN in the loop leaves alone (R90, R91). -/
theorem runLoop_frame (s : State) :
    (runLoop s).trk.run = s.trk.run ∧ (runLoop s).trk.err = s.trk.err ∧
      (runLoop s).trk.faulted = s.trk.faulted ∧ (runLoop s).trk.v.reduced = s.trk.v.reduced ∧
      (runLoop s).trk.h.reduced = s.trk.h.reduced := by
  obtain ⟨hrun, -, -, herr, hfaulted, hv, hh⟩ :=
    cyclesTracker_frame s.geom (runCount s) { s.trk with lastCPU := s.cpuClk }
  exact ⟨hrun, herr, hfaulted, hv, hh⟩

/-- The beam's advance as a frame, field by field (R74). -/
theorem advanceBeam_fields (g : Geometry) (t : Tracker) (k : Nat) :
    (advanceBeam g t k).trk.v.reduced = t.v.reduced ∧ (advanceBeam g t k).trk.h.reduced = t.h.reduced ∧
      (advanceBeam g t k).trk.newLine = t.newLine ∧ (advanceBeam g t k).trk.vblankSeen = t.vblankSeen ∧
      (advanceBeam g t k).trk.run = t.run ∧ (advanceBeam g t k).trk.lastCPU = t.lastCPU ∧
      (advanceBeam g t k).trk.lineReg = t.lineReg ∧ (advanceBeam g t k).trk.err = t.err ∧
      (advanceBeam g t k).trk.faulted = t.faulted := by
  rw [advanceBeam_frame]
  simp only [and_self]

/-- No completed command changes `err` (R26). -/
theorem Writes.err {s : State} {i : Instr} {trk : Tracker} (hw : Writes s i trk) : trk.err = s.trk.err := by
  cases hw with
  | query | baseline => rfl
  | advance | reduce | reduceBoth | tick => simp
  | move n k =>
    obtain ⟨-, -, -, -, -, -, -, herr, -⟩ := advanceBeam_fields s.geom s.trk k
    exact herr
  | loop =>
    obtain ⟨-, herr, -⟩ := runLoop_frame s
    exact herr

/-! ### The record of a tracker with a valid geometry -/

/-- What the invariant `Inv` says of the record under a valid geometry: not faulted (R27), both positions legal
(R14), and `lastCPU` and `lineReg` those of RESET before the first RUN (R24, R25). -/
structure SoundRecord (g : Geometry) (t : Tracker) : Prop where
  notFaulted : t.faulted = false
  v : InRange g.v t.v
  h : InRange g.h t.h
  beforeRun : t.run = .idle → t.lastCPU = 0 ∧ t.lineReg = (resetTracker g).lineReg

theorem Ready_soundRecord {s : State} (hs : Ready s) : SoundRecord s.geom s.trk :=
  ⟨hs.2, Ready_inRange hs .V, Ready_inRange hs .H, hs.1.2.2.2.1⟩

theorem SoundRecord.setP0 {g : Geometry} {t : Tracker} (ht : SoundRecord g t) (a : Axis) (p : Pos)
    (hp : p.toNat < (g.axis a).max.toNat) : SoundRecord g (t.setP0 a p) := by
  cases a with
  | V => exact ⟨ht.notFaulted, hp, ht.h, ht.beforeRun⟩
  | H => exact ⟨ht.notFaulted, ht.v, hp, ht.beforeRun⟩

theorem SoundRecord.setReduced {g : Geometry} {t : Tracker} (ht : SoundRecord g t) (a : Axis) (b : Bool) :
    SoundRecord g (t.setReduced a b) := by
  cases a <;> exact ⟨ht.notFaulted, ht.v, ht.h, ht.beforeRun⟩

theorem SoundRecord.advanceBeam {g : Geometry} {t : Tracker} (ht : SoundRecord g t) (k : Nat) :
    SoundRecord g (advanceBeam g t k).trk := by
  obtain ⟨hv, hh⟩ := advanceBeam_inRange g t k ht.v (Nat.zero_lt_of_lt ht.h)
  obtain ⟨-, -, -, -, hrun, hcpu, hline, -, hfaulted⟩ := advanceBeam_fields g t k
  refine ⟨hfaulted.trans ht.notFaulted, hv, hh, ?_⟩
  rw [hrun, hcpu, hline]
  exact ht.beforeRun

theorem SoundRecord.chipCycle {g : Geometry} {t : Tracker} (ht : SoundRecord g t) :
    SoundRecord g (chipCycle g t).trk := by
  obtain ⟨hv, hh⟩ := chipCycle_inRange g t ht.v (Nat.zero_lt_of_lt ht.h)
  exact ⟨by simp [ht.notFaulted], hv, hh, by simpa using ht.beforeRun⟩

/-- Any record a completed command leaves is sound: a position is written only by an advance, which is taken
`mod max`, and `run` leaves IDLE only by the baseline RUN. -/
theorem Writes.soundRecord {s : State} {i : Instr} {trk : Tracker} (hw : Writes s i trk) (hs : Ready s) :
    SoundRecord s.geom trk := by
  have ht := Ready_soundRecord hs
  cases hw with
  | query => exact ht
  | advance a k => exact ht.setP0 a _ (advance_p0_lt _ _ k (Ready_max_pos hs a))
  | reduce a b => exact ht.setReduced a b
  | reduceBoth v h => exact (ht.setReduced .V v).setReduced .H h
  | move n k => exact ht.advanceBeam k
  | tick => exact ht.chipCycle
  | baseline => exact ⟨ht.notFaulted, ht.v, ht.h, fun hidle => absurd hidle RunState.noConfusion⟩
  | loop hr =>
    obtain ⟨hrun, -, hfaulted, -, -⟩ := runLoop_frame s
    obtain ⟨hv, hh⟩ :=
      cyclesTracker_inRange s.geom (runCount s) { s.trk with lastCPU := s.cpuClk } ht.v ht.h
    refine ⟨hfaulted.trans ht.notFaulted, hv, hh, fun hidle => ?_⟩
    rw [hrun, hr] at hidle
    cases hidle

/-! ### The invariant, one lemma per outcome -/

theorem Inv_present {s : State} (hs : Inv s) (tx : Transaction) (rest : List Transaction) :
    Inv (present s tx rest) := hs

/-- A fault keeps the invariant: it sets `err`, which RESET with an invalid geometry has set already (R97). -/
theorem Inv_raiseFault {s : State} (hs : Inv s) (c : RCode) : Inv (raiseFault s c) := by
  obtain ⟨hfaulted, hrange, hstuck, hbefore, -⟩ := hs
  refine ⟨hfaulted, hrange, fun hbad => ?_, hbefore, fun _ => ⟨rfl, rfl, rfl⟩⟩
  simp only [raiseFault_trk, raiseFault_geom] at hbad ⊢
  rw [hstuck hbad]
  simp [resetTracker, hbad]

/-- A completed command keeps the invariant when the record it leaves is sound. -/
theorem Inv_complete {s : State} {trk : Tracker} (hg : geomOK s.geom = true) (ht : SoundRecord s.geom trk)
    (r : Word) (ev : List Emission) : Inv (complete s trk r ev) :=
  ⟨by simp [ht.notFaulted, hg], fun _ => ⟨ht.v, ht.h⟩, by simp [hg], ht.beforeRun, by simp⟩

/-- A state holding RESET's record and RESET's answer is sound, whatever its inputs (R115, R116). -/
theorem Inv_of_reset {s : State} (htrk : s.trk = resetTracker s.geom) (hrcode : s.rcode = resetCode s.geom)
    (hresp : s.resp = 0) (hevt : s.evt = []) : Inv s := by
  refine ⟨by rw [htrk]; rfl, fun hok => ?_, fun _ => htrk, fun _ => by rw [htrk]; exact ⟨rfl, rfl⟩,
    fun hne => ⟨hresp, hevt, ?_⟩⟩
  · rw [htrk]
    exact ⟨axisOK_max_pos (geomOK_axis hok .V), axisOK_max_pos (geomOK_axis hok .H)⟩
  · rw [hrcode] at hne
    simpa [htrk, resetCode] using hne

theorem exec_keeps_Inv {i : Instr} {s t : State} (hs : Inv s) (h : exec i s = .next t) : Inv t := by
  obtain ⟨c, -, -, rfl⟩ | ⟨-, rfl⟩ | ⟨hf, -, trk, r, ev, rfl, hw⟩ := exec_outcome h
  · exact Inv_raiseFault hs c
  · exact Inv_of_reset rfl rfl rfl rfl
  · exact Inv_complete (Ready_geomOK ⟨hs, hf⟩) (hw.soundRecord ⟨hs, hf⟩) r ev

end Sys2Proof.Machine

namespace Sys2Proof

/-! ### The exact RESET word -/

/-- Every row builds a command of its own opcode (R53). -/
theorem opcodeOf_build {r : OpRow} (hr : r ∈ opMap) (o : Operands) :
    opcodeOf (r.build o) = opcField r.value := by
  fin_cases hr <;> rfl

/-- A word that decodes is well formed and has the opcode of its command. -/
theorem opcField_of_decode {cw : Word} {i : Instr} (h : decode cw = .ok i) :
    opcField cw = opcodeOf i ∧ wordWellFormed cw = true := by
  obtain ⟨r, hr, hs, rfl⟩ := decode_cases h
  obtain ⟨hopc, hwf⟩ := (row_selects_iff r hr cw).1 hs
  exact ⟨hopc.trans (opcodeOf_build hr _).symm, hwf⟩

/-- Only the exact RESET word is a RESET: its row lists no field, so every other bit is clear (R52, R54). -/
theorem decode_eq_reset_iff (cw : Word) : decode cw = .ok .reset ↔ cw = resetWord := by
  constructor
  · intro h
    obtain ⟨hopc, hwf⟩ := opcField_of_decode h
    have huse : fieldUse (opcField cw) = some ⟨false, false, false, false⟩ := by rw [hopc]; rfl
    simp only [wordWellFormed, huse, fieldsClear, Bool.and_eq_true, beq_iff_eq, Bool.false_or,
      Bool.not_eq_true'] at hwf
    obtain ⟨⟨⟨⟨hrsv, hhb⟩, hsb⟩, hax⟩, himm⟩ := hwf
    exact (word_ext_fields cw resetWord).2 ⟨hopc, hrsv, hhb, hsb, hax, himm⟩
  · rintro rfl
    rfl

end Sys2Proof

namespace Sys2Proof.Machine

/-! ### The error flag -/

/-- A command that ends in a fault has set `err`, RESET included (R26, R97). -/
theorem exec_err_of_fault {i : Instr} {s t : State} (h : exec i s = .next t) (hne : t.rcode ≠ .ok) :
    t.trk.err = true := by
  obtain ⟨c, -, -, rfl⟩ | ⟨-, rfl⟩ | ⟨-, -, trk, r, ev, rfl, -⟩ := exec_outcome h
  · rfl
  · simpa [resetCode] using hne
  · exact absurd rfl hne

/-- Only RESET clears `err` (R26). -/
theorem exec_keeps_err {i : Instr} {s t : State} (h : exec i s = .next t) (hi : i ≠ .reset)
    (herr : s.trk.err = true) : t.trk.err = true := by
  obtain ⟨c, -, -, rfl⟩ | ⟨hreset, -⟩ | ⟨-, -, trk, r, ev, rfl, hw⟩ := exec_outcome h
  · rfl
  · exact absurd hreset hi
  · exact hw.err.trans herr

/-! ### Positions -/

/-- `last_0 + 1 = max` on both axes of a valid geometry (g3 of R114, R18). -/
theorem geomOK_last0 {g : Geometry} (h : geomOK g = true) (a : Axis) :
    (last0 (g.axis a)).toNat + 1 = (g.axis a).max.toNat := by
  have hax := geomOK_axis h a
  simp only [axisOK, geomG3, Bool.and_eq_true, decide_eq_true_eq] at hax
  exact hax.1.1.2

/-- An absolute value counted from `first` and back (R16, R17). -/
theorem toBase0_eq_of_emod {g : AxisGeometry} {m p : Pos} (hp : p.toNat < g.max.toNat)
    (h : ((m.toNat : Int) - g.first.toNat) % (g.max.toNat : Int) = p.toNat) : toBase0 g m = p := by
  apply BitVec.eq_of_toNat_eq
  have := toBase0_toNat m (Nat.zero_lt_of_lt hp)
  omega

theorem toBase0_first {g : AxisGeometry} (hm : 0 < g.max.toNat) : toBase0 g g.first = 0 :=
  toBase0_eq_of_emod hm (by simp)

theorem toBase0_posOf {g : AxisGeometry} {x : AxisState} (hx : InRange g x) : toBase0 g (posOf g x) = x.p0 := by
  apply toBase0_eq_of_emod hx
  rw [posOf_toNat x (Nat.zero_lt_of_lt hx)]
  push_cast
  rw [Int.emod_sub_emod, add_sub_cancel_left]
  exact Int.emod_eq_of_lt (by omega) (by exact_mod_cast hx)

theorem posOf_toBase0 {g : AxisGeometry} (x : AxisState) {m : Pos} (hm : m.toNat < g.max.toNat) :
    posOf g { x with p0 := toBase0 g m } = m := by
  have hmax := Nat.zero_lt_of_lt hm
  apply BitVec.eq_of_toNat_eq
  rw [← Int.natCast_inj, posOf_toNat _ hmax]
  push_cast
  rw [toBase0_toNat m hmax, Int.add_emod_emod, add_sub_cancel]
  exact Int.emod_eq_of_lt (by omega) (by exact_mod_cast hm)

/-- R18 in plain arithmetic: going back from `first` by one in the counter's cycle. -/
theorem emod_eq_pred_iff {f l m : Nat} (hf : f < m) (hl : l < m) :
    ((l : Int) - f) % (m : Int) = (m : Int) - 1 ↔ l = (f + m - 1) % m := by
  rcases Nat.eq_zero_or_pos f with rfl | hpos
  · rw [Int.emod_eq_of_lt (by omega) (by omega), Nat.mod_eq_of_lt (by omega)]
    omega
  · rw [show f + m - 1 = f - 1 + m by omega, Nat.add_mod_right, Nat.mod_eq_of_lt (by omega)]
    rcases Nat.lt_or_ge l f with hlt | hge
    · rw [← Int.add_emod_right, Int.emod_eq_of_lt (by omega) (by omega)]
      omega
    · rw [Int.emod_eq_of_lt (by omega) (by omega)]
      omega

end Sys2Proof.Machine

namespace Sys2Proof.Claims

open Sys2Proof.Machine

/-! ### The obligations -/

/-- Settles O52: a step holds the state, faults, or runs a command, and each keeps `Inv`. -/
theorem everyStepKeepsSoundness : Obligations.EveryStepKeepsSoundness := by
  intro s t hs h
  obtain ⟨-, rfl⟩ | ⟨tx, rest, -, hcases⟩ := step_cases h
  · exact hs
  · have hp := Inv_present hs tx rest
    obtain ⟨-, -, rfl⟩ | ⟨-, -, rfl⟩ | ⟨-, i, -, hexec⟩ := hcases
    · exact Inv_raiseFault hp .geometryInvalid
    · exact Inv_raiseFault hp .illegalCommand
    · exact exec_keeps_Inv hp hexec

/-- Settles O27: both formulas are taken `mod max`, where adding and subtracting `first` cancel. -/
theorem absolutePositionInvertsBase0 : Obligations.AbsolutePositionInvertsBase0 := by
  refine ⟨fun g x hfirst hx => ?_, fun s hs => posOf_toNat s.trk.v (Ready_max_pos hs .V)⟩
  have hmax := Nat.zero_lt_of_lt hfirst
  exact ⟨posOf_toNat x hmax, toBase0_posOf hx, toBase0_first hmax,
    fun m => ⟨toBase0_toNat m hmax, posOf_toBase0 x⟩⟩

/-- Settles O28: R18's equivalence is arithmetic, and the fault is g3 of R114 failing. -/
theorem lastPositionPrecedesTheFirst : Obligations.LastPositionPrecedesTheFirst := by
  constructor
  · intro g hfirst hlast
    have hbase := toBase0_toNat g.last (Nat.zero_lt_of_lt hfirst)
    rw [← emod_eq_pred_iff hfirst hlast, ← hbase]
    omega
  · intro s a hne
    have hbad : geomOK s.geom = false := by
      by_contra hok
      rw [Bool.not_eq_false] at hok
      have hbase := toBase0_toNat (s.geom.axis a).last (axisOK_max_pos (geomOK_axis hok a))
      have hlast := geomOK_last0 hok a
      rw [last0] at hlast
      rw [base0, ← hbase] at hne
      omega
    exact ⟨_, rfl, by simp [resetCode, hbad], by simp [hbad]⟩

/-- Settles O53: `geom` is written by no outcome of a step. -/
theorem noStepChangesTheGeometry : Obligations.NoStepChangesTheGeometry := by
  intro s t h
  obtain ⟨-, rfl⟩ | ⟨tx, rest, -, ⟨-, -, rfl⟩ | ⟨-, -, rfl⟩ | ⟨-, i, -, hexec⟩⟩ := step_cases h
  · rfl
  · rfl
  · rfl
  · exact (exec_geom hexec).trans (present_geom s tx rest)

/-- Settles O54: the fields each case of `Writes` leaves alone, and the command it names for the others. -/
theorem onlyTheListedCommandsWriteEachField : Obligations.OnlyTheListedCommandsWriteEachField := by
  intro i s t h
  obtain ⟨c, hc, -, rfl⟩ | ⟨rfl, rfl⟩ | ⟨-, -, trk, r, ev, rfl, hw⟩ := exec_outcome h
  · simp [hc]
  · simp
  · cases hw with
    | query => simp
    | advance a k hi =>
      cases a <;> obtain ⟨n, rfl⟩ | rfl := hi <;> simp
    | reduce a b => cases a <;> simp
    | reduceBoth v h => simp
    | move n k => simp [advanceBeam_fields s.geom s.trk k]
    | tick => simp
    | baseline => simp [runBaseline]
    | loop => simp [runLoop_frame s]

/-- Settles O56: RESET is the exact RESET word, and every other command that does not fault leaves `err`. -/
theorem errorFlagIsStickyUntilReset : Obligations.ErrorFlagIsStickyUntilReset := by
  intro s t tx rest hin h
  obtain ⟨hnil, -⟩ | ⟨tx', rest', hin', hcases⟩ := step_cases h
  · rw [hin] at hnil
    cases hnil
  obtain ⟨rfl, rfl⟩ := List.cons.inj (hin.symm.trans hin')
  obtain ⟨-, hword, rfl⟩ | ⟨-, hnone, rfl⟩ | ⟨-, i, hdecode, hexec⟩ := hcases
  · exact ⟨fun _ => rfl, fun _ _ => rfl, fun heq => absurd heq hword⟩
  · exact ⟨fun _ => rfl, fun _ _ => rfl, fun heq => absurd ((decode_eq_reset_iff _).2 heq) (hnone .reset)⟩
  · refine ⟨exec_err_of_fault hexec, fun herr hword => ?_, fun heq hok => ?_⟩
    · refine exec_keeps_err hexec ?_ herr
      rintro rfl
      exact hword ((decode_eq_reset_iff _).1 hdecode)
    · have hi : i = .reset := Except.ok.inj (hdecode.symm.trans ((decode_eq_reset_iff _).2 heq))
      subst hi
      rw [← Host.Outcome.next.inj hexec]
      simp [hok]

/-- Settles O51: power-on holds RESET's record and answer. -/
theorem soundnessHoldsAtPowerOn : Obligations.SoundnessHoldsAtPowerOn :=
  have hpowerOn (g : Geometry) : Inv (State.powerOn g) := Inv_of_reset rfl rfl rfl rfl
  ⟨hpowerOn, hpowerOn _⟩

end Sys2Proof.Claims
end

-- The memory family: O7 and O58.
section
/-! PROOFS. Words as a host moves them and the queries (20_memory.md): the bytes of a word, put together again
(R38), and that no command reads the output ports, which makes every query idempotent (R40). -/

namespace Sys2Proof

/-! ### Words as bytes -/

/-- A word is its four bytes, most significant first. -/
theorem bytes_append (w : Word) :
    w.extractLsb' 24 8 ++ w.extractLsb' 16 8 ++ w.extractLsb' 8 8 ++ w.extractLsb' 0 8 = w := by
  rw [BitVec.extractLsb'_append_extractLsb'_eq_extractLsb' (by rfl),
    BitVec.extractLsb'_append_extractLsb'_eq_extractLsb' (by rfl),
    BitVec.extractLsb'_append_extractLsb'_eq_extractLsb' (by rfl), BitVec.extractLsb'_eq_self]

/-- Both orders list the same four bytes, and each order reads its own list back (R38). -/
theorem wordOfBytes_bytesOfWord (o : ByteOrder) (w : Word) : ∃ b0 b1 b2 b3,
    bytesOfWord o w = [b0, b1, b2, b3] ∧ wordOfBytes o b0 b1 b2 b3 = w := by
  cases o with
  | little => exact ⟨_, _, _, _, rfl, bytes_append w⟩
  | big => exact ⟨_, _, _, _, rfl, bytes_append w⟩

/-- The byte decoder reads exactly one word (R49). -/
theorem decodeBytes_of_decode {o : ByteOrder} {b0 b1 b2 b3 : Byte} {i : Instr}
    (h : decode (wordOfBytes o b0 b1 b2 b3) = .ok i) (rest : List Byte) :
    decodeBytes o (b0 :: b1 :: b2 :: b3 :: rest) = .ok (i, rest) := by
  rw [decodeBytes, h]

end Sys2Proof

namespace Sys2Proof.Machine

/-! ### The output ports -/

/-- No command reads `RESP`, `RCODE` or `EVT`: those an earlier command left make no difference (R51). -/
theorem exec_complete_sameRecord (i : Instr) (s : State) (r : Word) (ev : List Emission) :
    exec i (complete s s.trk r ev) = exec i s := by
  cases i <;> rfl

end Sys2Proof.Machine

namespace Sys2Proof.Claims

open Sys2Proof.Machine

/-! ### The obligations -/

/-- Settles O7: the bytes are the word again in either order, so the byte decoder decodes that word. -/
theorem wordOfItsBytesIsTheWord : Obligations.WordOfItsBytesIsTheWord := by
  intro o w rest
  obtain ⟨b0, b1, b2, b3, hbytes, hword⟩ := wordOfBytes_bytesOfWord o w
  refine ⟨b0, b1, b2, b3, hbytes, hword, fun i hdecode => ?_⟩
  rw [hbytes]
  rw [← hword] at hdecode
  exact decodeBytes_of_decode hdecode rest

/-- Settles O58: the first query leaves the record, and the second does not see the answer of the first. -/
theorem queriesAreIdempotent : Obligations.QueriesAreIdempotent := by
  intro i s t hq hf h
  obtain ⟨r, hr⟩ := exec_of_query hq hf
  obtain rfl : complete s s.trk r [] = t := Host.Outcome.next.inj (hr.symm.trans h)
  exact ⟨rfl, rfl, rfl, rfl, (exec_complete_sameRecord i s r []).trans h⟩

end Sys2Proof.Claims
end

-- The encoding family: O1 to O6 and O8 to O10.
section
/-! PROOFS. The encoding (30_encoding.md): a word is its opcode, `RSV` and its operands, and the row of an opcode
reads and writes the same fields, so encoder and decoder are inverse (R49 to R53); the words no row selects are those
of R54; and a step is its admission followed by `exec` (R52). -/

namespace Sys2Proof

/-! ### The word of a command -/

/-- Two words are equal when their opcodes, their `RSV` and their operands are (R49, R50). -/
theorem word_ext_operands {x y : Word} (hopc : opcField x = opcField y) (hrsv : rsvField x = rsvField y)
    (hops : operandsOf x = operandsOf y) : x = y := by
  have haxis : Function.Injective axisOfBit := by decide
  simp only [operandsOf, Operands.mk.injEq] at hops
  obtain ⟨hax, hsb, hhb, himm⟩ := hops
  exact (word_ext_fields x y).2 ⟨hopc, hrsv, hhb, hsb, haxis hax, himm⟩

/-- The word of any command is well formed (R54). -/
theorem wordWellFormed_encode (i : Instr) : wordWellFormed (encode i) = true := by
  obtain ⟨-, -, hwf⟩ : Laws.Encoding.Statement i := by
    cases i <;> exact Laws.Encoding.statement_of _ _ rfl (by simp [operandFields, bitOfAxis])
  exact hwf

/-- `commandWord` in numbers: each field shifted to its place (R55). -/
theorem commandWord_toNat (opc : BitVec 8) (hb sb ax : Bool) (imm : Pos) :
    (commandWord opc hb sb ax imm).toNat =
      opc.toNat <<< 24 ||| hb.toNat <<< 18 ||| sb.toNat <<< 17 ||| ax.toNat <<< 16 ||| imm.toNat := by
  have happend : (commandWord opc hb sb ax imm).toNat = opc.toNat <<< 24 ||| _ := BitVec.toNat_append opc _
  simpa only [BitVec.toNat_append, BitVec.toNat_ofBool, BitVec.toNat_ofNat, Nat.zero_mod, Nat.zero_shiftLeft,
    Nat.zero_or, Nat.or_assoc] using happend

/-! ### The row of a command -/

/-- Every command is built by a row of its opcode from the operands its word holds: the rows of the opcode map
stand in the order of the constructors of `Instr` (R53). -/
theorem exists_row_build (i : Instr) : ∃ r ∈ opMap, r.build (operandFields i) = i := by
  obtain ⟨r, hr, hbuild⟩ : ∃ r, opMap[i.ctorIdx]? = some r ∧ r.build (operandFields i) = i := by
    cases i <;> exact ⟨_, rfl, rfl⟩
  exact ⟨r, List.mem_of_getElem? hr, hbuild⟩

/-- The operands with every field a row does not list cleared (R53). -/
def Operands.restrict (o : Operands) (u : FieldUse) : Operands where
  ax := if u.ax then o.ax else .V
  s := u.sb && o.s
  h := u.hb && o.h
  imm := if u.imm then o.imm else 0

/-- A row's command holds the operands the row lists, and no other (R53). -/
theorem operandFields_build {r : OpRow} (hr : r ∈ opMap) {u : FieldUse}
    (hu : fieldUse (opcField r.value) = some u) (o : Operands) :
    operandFields (r.build o) = o.restrict u := by
  fin_cases hr <;> cases hu <;> rfl

/-- A word with its unlisted fields clear holds listed operands only. -/
theorem restrict_operandsOf {u : FieldUse} {cw : Word} (hc : fieldsClear u cw = true) :
    (operandsOf cw).restrict u = operandsOf cw := by
  simp only [fieldsClear, Bool.and_eq_true, Bool.or_eq_true, Bool.not_eq_true', beq_iff_eq] at hc
  obtain ⟨⟨⟨⟨-, hhb⟩, hsb⟩, hax⟩, himm⟩ := hc
  simp only [Operands.restrict, operandsOf, Operands.mk.injEq]
  refine ⟨?_, ?_, ?_, ?_⟩
  · obtain h | h := hax <;> simp [h, axisOfBit]
  · obtain h | h := hsb <;> simp [h]
  · obtain h | h := hhb <;> simp [h]
  · obtain h | h := himm <;> simp [h]

theorem wordWellFormed_iff (cw : Word) :
    wordWellFormed cw = true ↔ ∃ u, fieldUse (opcField cw) = some u ∧ fieldsClear u cw = true := by
  unfold wordWellFormed
  cases fieldUse (opcField cw) <;> simp

theorem rsvField_of_wordWellFormed {cw : Word} (h : wordWellFormed cw = true) : rsvField cw = 0 := by
  obtain ⟨u, -, hc⟩ := (wordWellFormed_iff cw).1 h
  simp only [fieldsClear, Bool.and_eq_true, beq_iff_eq] at hc
  obtain ⟨⟨⟨⟨hrsv, -⟩, -⟩, -⟩, -⟩ := hc
  exact hrsv

/-- The command a word decodes to holds the operands of the word (R50). -/
theorem operandFields_of_decode {cw : Word} {i : Instr} (h : decode cw = .ok i) :
    operandFields i = operandsOf cw := by
  obtain ⟨r, hr, hs, rfl⟩ := decode_cases h
  obtain ⟨hopc, hwf⟩ := (row_selects_iff r hr cw).1 hs
  obtain ⟨u, hu, hc⟩ := (wordWellFormed_iff cw).1 hwf
  rw [operandFields_build hr (hopc ▸ hu), restrict_operandsOf hc]

/-- "at most one row matches" (R52). -/
theorem row_unique {r1 r2 : OpRow} (h1 : r1 ∈ opMap) (h2 : r2 ∈ opMap) {cw : Word}
    (hs1 : r1.selects cw = true) (hs2 : r2.selects cw = true) : r1 = r2 := by
  obtain ⟨hopc1, -⟩ := (row_selects_iff r1 h1 cw).1 hs1
  obtain ⟨hopc2, -⟩ := (row_selects_iff r2 h2 cw).1 hs2
  exact List.inj_on_of_nodup_map opMap_opcodes_nodup h1 h2 (hopc1.symm.trans hopc2)

/-! ### The words that are no command -/

/-- A word decodes exactly when it is well formed (R52, R54). -/
theorem exists_decode_iff (cw : Word) : (∃ i, decode cw = .ok i) ↔ wordWellFormed cw = true := by
  constructor
  · rintro ⟨i, h⟩
    exact (opcField_of_decode h).2
  · intro hwf
    obtain ⟨u, hu, -⟩ := (wordWellFormed_iff cw).1 hwf
    obtain ⟨r, hr, hopc⟩ := opMap_complete (opcField cw) (by simp [hu])
    exact ⟨_, decode_of_row hr ((row_selects_iff r hr cw).2 ⟨hopc.symm, hwf⟩)⟩

end Sys2Proof

namespace Sys2Proof.Claims

/-- The "Fields" column has a row for every opcode but the listed ones (R53, R54). -/
theorem fieldUse_eq_none_iff (opc : BitVec 8) : fieldUse opc = none ↔ unassigned opc := by
  unfold fieldUse unassigned
  split_ifs <;> simp only [false_iff, true_iff] <;> bv_omega

/-- The stray bits of R54 are what `fieldsClear` finds. -/
theorem strayBitSet_iff (u : FieldUse) (cw : Word) : strayBitSet u cw ↔ fieldsClear u cw = false := by
  have hbit (k : Nat) : cw.extractLsb' k 1 ≠ 0 ↔ cw.getLsbD k = true := by
    rw [BitVec.getLsbD_eq_extractLsb']
    generalize cw.extractLsb' k 1 = b
    revert b
    decide
  rw [← Bool.not_eq_true]
  simp only [strayBitSet, fieldsClear, hbit, rsvField, hbField, sbField, axField, immField,
    Bool.and_eq_true, Bool.or_eq_true, Bool.not_eq_true', beq_iff_eq, not_and_or, not_or,
    Bool.not_eq_true, Bool.not_eq_false, or_assoc, ne_eq]

end Sys2Proof.Claims

namespace Sys2Proof.Machine

/-! ### The step on a presented word -/

theorem step_of_acceptWord_ok {s : State} {tx : Transaction} {rest : List Transaction} {i : Instr}
    (hin : s.inputs = tx :: rest) (h : acceptWord s.trk.faulted tx.cmd = .ok i) :
    step s = exec i (present s tx rest) := by
  simp only [step, hin, h]

theorem step_of_acceptWord_error {s : State} {tx : Transaction} {rest : List Transaction} {c : RCode}
    (hin : s.inputs = tx :: rest) (h : acceptWord s.trk.faulted tx.cmd = .error c) :
    step s = .next (raiseFault (present s tx rest) c) := by
  simp only [step, hin, h]

/-- A faulted tracker refuses every word but the exact RESET word (R52, R99). -/
theorem acceptWord_of_faulted {faulted : Bool} {cw : Word} (h : faulted = true ∧ cw ≠ resetWord) :
    acceptWord faulted cw = .error .geometryInvalid := by
  rw [acceptWord, if_pos (by simpa using h)]

theorem acceptWord_of_decode {faulted : Bool} {cw : Word} {i : Instr} (h : ¬(faulted = true ∧ cw ≠ resetWord))
    (hd : decode cw = .ok i) : acceptWord faulted cw = .ok i := by
  rw [acceptWord, if_neg (by simpa using h), hd]

theorem acceptWord_of_illegal {faulted : Bool} {cw : Word} (h : ¬(faulted = true ∧ cw ≠ resetWord))
    (hd : ∀ i, decode cw ≠ .ok i) : acceptWord faulted cw = .error .illegalCommand := by
  rw [acceptWord, if_neg (by simpa using h)]
  cases hcw : decode cw with
  | ok i => exact absurd hcw (hd i)
  | error r => rfl

end Sys2Proof.Machine

namespace Sys2Proof.Claims

open Sys2Proof.Machine

/-! ### The obligations -/

/-- Settles O2: the word is well formed, so the row of its opcode selects it and reads its operands back. -/
theorem decodeOfEncodeIsTheCommand : Obligations.DecodeOfEncodeIsTheCommand := by
  intro i
  obtain ⟨r, hr, hbuild⟩ := exists_row_build i
  obtain ⟨hword, hops⟩ := Laws.Encoding.fields_of_encode i
  have hopc : opcodeOf i = opcField r.value := by
    rw [← opcodeOf_build hr (operandFields i), hbuild]
  have hs : r.selects (encode i) = true :=
    (row_selects_iff r hr _).2 ⟨hword.trans hopc, wordWellFormed_encode i⟩
  rw [decode_of_row hr hs, hops, hbuild]

/-- Settles O3: the word and the word of its command have the same opcode and operands, and `RSV` 0. -/
theorem encodeOfDecodedIsTheWord : Obligations.EncodeOfDecodedIsTheWord := by
  intro cw i h
  obtain ⟨hopc, hwf⟩ := opcField_of_decode h
  obtain ⟨hword, hops⟩ := Laws.Encoding.fields_of_encode i
  have hrsv : rsvField (encode i) = rsvField cw :=
    (rsvField_of_wordWellFormed (wordWellFormed_encode i)).trans (rsvField_of_wordWellFormed hwf).symm
  exact word_ext_operands (hword.trans hopc.symm) hrsv (hops.trans (operandFields_of_decode h))

/-- Settles O4: no two rows have one opcode, so the two rows are one. -/
theorem atMostOneRowMatches : Obligations.AtMostOneRowMatches := by
  intro r1 h1 r2 h2 cw hs1 hs2
  obtain rfl := row_unique h1 h2 (beq_iff_eq.2 hs1) (beq_iff_eq.2 hs2)
  exact ⟨rfl, rfl, rfl⟩

/-- Settles O5: the refused words are the ill-formed ones, and an ill-formed word is of an unassigned opcode or
has a stray bit. -/
theorem illegalWordsAreExactlyThoseListed : Obligations.IllegalWordsAreExactlyThoseListed := by
  refine ⟨fieldUse_eq_none_iff, fun cw => ?_, fun s tx rest hin hf hd => ?_⟩
  · change _ ↔ unassigned (opcField cw) ∨ ∃ u, fieldUse (opcField cw) = some u ∧ strayBitSet u cw
    rw [← not_exists, exists_decode_iff, wordWellFormed_iff, ← fieldUse_eq_none_iff]
    cases fieldUse (opcField cw) <;> simp [strayBitSet_iff]
  · exact step_of_acceptWord_error hin (acceptWord_of_illegal (by simp [hf]) hd)

/-- Settles O6: the encoder appends the fields, and appending is shifting. -/
theorem commandWordIsTheShiftedFields : Obligations.CommandWordIsTheShiftedFields := by
  have hnum (b : Bool) : num b = b.toNat := by cases b <;> rfl
  have haxis (a : Axis) : (axBit a).toNat = (bitOfAxis a).toNat := by cases a <;> rfl
  intro i
  rw [hnum, hnum, haxis]
  exact commandWord_toNat ..

/-- Settles O9: a faulted tracker that refuses the word answers what `exec` of the command answers. -/
theorem stepRunsThePresentedCommand : Obligations.StepRunsThePresentedCommand := by
  intro s tx rest i hin hd
  by_cases h : s.trk.faulted = true ∧ tx.cmd ≠ resetWord
  · obtain ⟨hfaulted, hword⟩ := h
    have hi : i ≠ .reset := by
      rintro rfl
      exact hword ((decode_eq_reset_iff _).1 hd)
    have hexec : exec i (present s tx rest) = .next (raiseFault (present s tx rest) .geometryInvalid) :=
      exec_of_faulted hfaulted hi
    exact (step_of_acceptWord_error hin (acceptWord_of_faulted ⟨hfaulted, hword⟩)).trans hexec.symm
  · exact step_of_acceptWord_ok hin (acceptWord_of_decode h hd)

/-- Settles O10: the admission of the word, then the row that selects it. -/
theorem stepFollowsTheDecodeProcedure : Obligations.StepFollowsTheDecodeProcedure := by
  intro s tx rest hin
  refine ⟨fun h => ?_, fun h hnone => ?_, fun _ r hr hs => ?_⟩
  · exact step_of_acceptWord_error hin (acceptWord_of_faulted h)
  · refine step_of_acceptWord_error hin (acceptWord_of_illegal h fun i hd => ?_)
    obtain ⟨r, hr, hs, -⟩ := decode_cases hd
    exact hnone r hr (beq_iff_eq.1 hs)
  · exact stepRunsThePresentedCommand s tx rest _ hin (decode_of_row hr (beq_iff_eq.2 hs))

/-- Settles O1: each sample is the word of its command. -/
theorem sampleWordsDecode : Obligations.SampleWordsDecode :=
  have hdecode := decodeOfEncodeIsTheCommand
  ⟨hdecode .reset, hdecode (.axadd .H 8), hdecode (.axred .V true), hdecode (.move 1), hdecode (.red2 true false),
    hdecode (.red2 false true), hdecode .tick, hdecode (.linecmp 0x30)⟩

/-- Settles O8: `expandPseudo` is R56's table, entry by entry. -/
theorem pseudoCommandsExpandAsListed : Obligations.PseudoCommandsExpandAsListed :=
  ⟨fun _ => rfl, fun _ => rfl, fun _ => rfl, fun _ => rfl, fun _ => rfl, rfl⟩

end Sys2Proof.Claims
end

-- The axis family: O14 to O26.
section
/-! PROOFS. The per-axis commands (40_axis_ops.md): the word and the faults of any command from its row, the model's
arithmetic as the rules write it (R16, R17, R20, R58), the advance of one axis (R57), and the rules R59 to R72 settled
from them. -/

namespace Sys2Proof.Claims

open Sys2Proof.Machine

/-! ### The word and the faults of a command -/

/-- The word of a command in the claims' fields decodes to it (R49, R53). -/
theorem decode_fieldsWord (i : Instr) :
    decode (fieldsWord (opcodeOf i) (boolBit (operandFields i).h) (boolBit (operandFields i).s)
      (axBit (operandFields i).ax) (operandFields i).imm) = .ok i := by
  have hbit (b : Bool) : boolBit b = BitVec.ofBool b := by cases b <;> rfl
  have hax (a : Axis) : axBit a = BitVec.ofBool (bitOfAxis a) := by cases a <;> rfl
  rw [hbit, hbit, hax]
  exact decodeOfEncodeIsTheCommand i

/-- An opcode alone has no bit below bit 24 (R49). -/
theorem opcode_and_operandBits (opc : BitVec 8) : commandWord opc false false false 0 &&& 0x00FFFFFF = 0 := by
  change (opc ++ 0#24) &&& (0#8 ++ 0xFFFFFF#24) = 0
  rw [BitVec.and_append, BitVec.and_zero, BitVec.zero_and]
  rfl

/-- A well-formed word has a 0 in `RSV` and in every field its row does not list (R54). -/
theorem and_unused_of_wordWellFormed {cw : Word} {u : FieldUse} (hu : fieldUse (opcField cw) = some u)
    (hwf : wordWellFormed cw = true) : cw &&& (maskOf u &&& 0x00FFFFFF) = 0 := by
  obtain ⟨u', hu', hclear⟩ := (wordWellFormed_iff cw).1 hwf
  obtain rfl : u' = u := Option.some.inj (hu'.symm.trans hu)
  rw [← BitVec.and_assoc, (masked_eq_iff cw _ u').2 ⟨rfl, hclear⟩, opcode_and_operandBits]

/-- The "Exceptions" line of every command but RESET, from the fields its row lists (R54, R98, R99). -/
theorem faultsAsStated {i : Instr} {opc : BitVec 8} {unused : Word} (u : FieldUse) (hi : i ≠ .reset)
    (hu : fieldUse opc = some u) (hunused : unused = maskOf u &&& 0x00FFFFFF) : FaultsAsStated i opc unused := by
  refine ⟨fun s hf => exec_of_faulted hf hi, fun s tx rest hin hf hopc hstray => ?_⟩
  refine step_of_acceptWord_error hin (acceptWord_of_illegal (by simp [hf]) fun j hd => hstray ?_)
  rw [hunused]
  exact and_unused_of_wordWellFormed ((congrArg fieldUse hopc).trans hu) (opcField_of_decode hd).2

/-- A command whose row lists `AX` alone. -/
theorem faultsAsStated_axOnly {i : Instr} {opc : BitVec 8} (hi : i ≠ .reset)
    (hu : fieldUse opc = some ⟨true, false, false, false⟩) : FaultsAsStated i opc 0x00FEFFFF :=
  faultsAsStated _ hi hu rfl

/-! ### The model's values as the rules write them -/

theorem asResp_eq_zextBool (b : Bool) : asResp b = zextBool b := by
  cases b <;> rfl

theorem zextPos_eq_ofNat (p : Pos) : zextPos p = BitVec.ofNat 32 p.toNat := (BitVec.ofNat_toNat 32 p).symm

theorem toBase0_eq_base0 {g : AxisGeometry} (hm : 0 < g.max.toNat) (m : Pos) :
    ((toBase0 g m).toNat : Int) = base0 g m :=
  toBase0_toNat m hm

theorem zextPos_toBase0 {g : AxisGeometry} (hm : 0 < g.max.toNat) (m : Pos) :
    zextPos (toBase0 g m) = BitVec.ofInt 32 (base0 g m) := by
  rw [zextPos_eq_ofNat, ← toBase0_eq_base0 hm, BitVec.ofInt_natCast]

section Zones

variable {g : AxisGeometry} (hm : 0 < g.max.toNat) (x : AxisState)
include hm

theorem inBlank_eq_blankAt : inBlank g x = blankAt g x.p0.toNat := by
  rw [Bool.eq_iff_iff, inBlank_iff, blankAt, decide_eq_true_iff, ← toBase0_eq_base0 hm, ← toBase0_eq_base0 hm,
    Nat.cast_lt, Nat.cast_lt]
  rfl

theorem inLastBlank_eq_lastBlankAt : inLastBlank g x = lastBlankAt g x.p0.toNat := by
  rw [Bool.eq_iff_iff, inLastBlank_iff, lastBlankAt, decide_eq_true_iff, ← toBase0_eq_base0 hm, Nat.cast_lt]
  rfl

theorem inVisible_eq_visibleAt : inVisible g x = visibleAt g x.p0.toNat := by
  rw [Bool.eq_iff_iff, inVisible_iff, visibleAt, decide_eq_true_iff, ← toBase0_eq_base0 hm, ← toBase0_eq_base0 hm,
    Nat.cast_le, Nat.cast_le]
  rfl

theorem inDisplay_eq_displayAt : inDisplay g x = displayAt g x.p0.toNat := by
  rw [Bool.eq_iff_iff, inDisplay_iff, displayAt, decide_eq_true_iff, ← toBase0_eq_base0 hm, ← toBase0_eq_base0 hm,
    Nat.cast_le, Nat.cast_le]
  rfl

theorem inScreen_eq_screenAt : inScreen g x = screenAt g x.reduced x.p0.toNat := by
  rw [Bool.eq_iff_iff, inScreen_iff, screenAt, decide_eq_true_iff, ← toBase0_eq_base0 hm, ← toBase0_eq_base0 hm]
  rfl

end Zones

/-- Visible and blank are complements at any position (R58). -/
theorem visibleAt_eq_not_blankAt (g : AxisGeometry) (n : Nat) : visibleAt g n = !blankAt g n := by
  rw [Bool.eq_iff_iff]
  simp [visibleAt, blankAt]

/-- Without the reduction the screen zone is the display zone (R20). -/
theorem screenAt_false (g : AxisGeometry) (n : Nat) : screenAt g false n = displayAt g n := by
  simp [screenAt, displayAt]

/-! ### Queries -/

/-- AXSCR on any tracker that is not faulted, at a `max` that is not 0 (R69). -/
theorem exec_axscr {s : State} (a : Axis) (hf : s.trk.faulted = false) (hm : 0 < (s.geom.axis a).max.toNat) :
    exec (.axscr a) s =
      .next (answered s (asResp (screenAt (s.geom.axis a) (s.trk.axis a).reduced (beam s a)))) := by
  rw [beam, ← inScreen_eq_screenAt hm, asResp_eq_zextBool]
  exact query_of_ok hf

theorem exec_axdisp {s : State} (hs : Ready s) (a : Axis) :
    exec (.axdisp a) s = .next (answered s (asResp (displayAt (s.geom.axis a) (beam s a)))) := by
  rw [beam, ← inDisplay_eq_displayAt (Ready_max_pos hs a), asResp_eq_zextBool]
  exact query_of_ok hs.2

theorem exec_axrdred {s : State} (a : Axis) (hf : s.trk.faulted = false) :
    exec (.axrdred a) s = .next (answered s (asResp (s.trk.axis a).reduced)) := by
  rw [asResp_eq_zextBool]
  exact query_of_ok hf

/-! ### The reduction -/

theorem exec_axred {s : State} (a : Axis) (b : Bool) (hf : s.trk.faulted = false) :
    exec (.axred a b) s = .next (complete s (s.trk.setReduced a b) 0 []) :=
  unlessFaulted_of_ok hf

/-- A reduction that stands is set again without effect (R61). -/
theorem setReduced_of_reduced_eq {t : Tracker} {a : Axis} {b : Bool} (h : (t.axis a).reduced = b) :
    t.setReduced a b = t := by
  subst h
  cases a <;> rfl

/-- The last reduction set is the one that stands (R72). -/
theorem setReduced_setReduced (t : Tracker) (a : Axis) (b c : Bool) :
    (t.setReduced a b).setReduced a c = t.setReduced a c := by
  cases a <;> rfl

/-! ### Placing and advancing the beam -/

theorem placed_eq_setP0 (t : Tracker) (a : Axis) (n : Nat) : placed t a n = t.setP0 a (BitVec.ofNat 16 n) := by
  cases a <;> rfl

theorem placed_placed (t : Tracker) (a : Axis) (m n : Nat) : placed (placed t a m) a n = placed t a n := by
  cases a <;> rfl

theorem placed_beam (s : State) (a : Axis) : placed s.trk a (beam s a) = s.trk := by
  rw [placed_eq_setP0, beam, BitVec.ofNat_toNat, BitVec.setWidth_eq]
  cases a <;> rfl

theorem placed_axis_toNat {p : Nat} (t : Tracker) (a : Axis) (hp : p < 2 ^ 16) :
    ((placed t a p).axis a).p0.toNat = p := by
  rw [placed_eq_setP0, setP0_axis_same]
  exact (BitVec.toNat_ofNat ..).trans (Nat.mod_eq_of_lt hp)

/-- AXSCR with the beam placed at a legal position (R69). -/
theorem exec_axscr_placed {s : State} {a : Axis} {b : Bool} {p : Nat} (hf : s.trk.faulted = false)
    (hred : (s.trk.axis a).reduced = b) (hp : p < (s.geom.axis a).max.toNat) :
    exec (.axscr a) { s with trk := placed s.trk a p } =
      .next (answered { s with trk := placed s.trk a p } (asResp (screenAt (s.geom.axis a) b p))) := by
  have hscr := exec_axscr (s := { s with trk := placed s.trk a p }) a
    (by simpa [placed_eq_setP0] using hf) (Nat.zero_lt_of_lt hp)
  rw [beam, placed_axis_toNat _ _ (lt_trans hp (BitVec.isLt _)), placed_eq_setP0, setP0_axis_same, hred,
    ← placed_eq_setP0] at hscr
  exact hscr

theorem Ready_beam_lt {s : State} (hs : Ready s) (a : Axis) : beam s a < (s.geom.axis a).max.toNat :=
  Ready_inRange hs a

/-- What an advance of axis `a` by `k` leaves: the beam `mod max`, and in RESP whether it crossed the boundary
(R57). -/
def advanced (s : State) (a : Axis) (k : Nat) : State :=
  { s with
    trk := placed s.trk a ((beam s a + k) % (s.geom.axis a).max.toNat)
    resp := asResp (decide ((s.geom.axis a).max.toNat ≤ beam s a + k))
    rcode := .ok
    evt := [] }

theorem complete_advance {s : State} (hs : Ready s) (a : Axis) (k : Nat) :
    complete s (s.trk.setP0 a (advance (s.geom.axis a) (s.trk.axis a) k).1)
      (zextBool (advance (s.geom.axis a) (s.trk.axis a) k).2) [] = advanced s a k := by
  rw [advance_p0 _ _ _ (Ready_max_pos hs a), ← placed_eq_setP0, ← asResp_eq_zextBool]
  rfl

theorem exec_axadd {s : State} (hs : Ready s) (a : Axis) (i : Pos) :
    exec (.axadd a i) s = .next (advanced s a i.toNat) := by
  rw [← complete_advance hs]
  exact unlessFaulted_of_ok hs.2

theorem exec_axnext {s : State} (hs : Ready s) (a : Axis) : exec (.axnext a) s = .next (advanced s a 1) := by
  rw [← complete_advance hs]
  exact unlessFaulted_of_ok hs.2

/-- One position on: a wrap exactly from `max - 1` (R60). -/
theorem succ_mod_eq_ite {p m : Nat} (hp : p < m) : (p + 1) % m = if p + 1 = m then 0 else p + 1 := by
  split
  · next h => rw [h, Nat.mod_self]
  · exact Nat.mod_eq_of_lt (by omega)

theorem wraps_next_iff {s : State} (hs : Ready s) (a : Axis) :
    (s.geom.axis a).max.toNat ≤ beam s a + 1 ↔ beam s a + 1 = (s.geom.axis a).max.toNat := by
  have := Ready_beam_lt hs a
  omega

theorem Ready_advanced {s : State} (hs : Ready s) (a : Axis) : Ready (advanced s a 1) := by
  refine ⟨exec_keeps_Inv hs.1 (exec_axnext hs a), ?_⟩
  rw [advanced, placed_eq_setP0, setP0_faulted]
  exact hs.2

theorem beam_advanced {s : State} (hs : Ready s) (a : Axis) (k : Nat) :
    beam (advanced s a k) a = (beam s a + k) % (s.geom.axis a).max.toNat :=
  placed_axis_toNat _ _ (lt_trans (Nat.mod_lt _ (Ready_max_pos hs a)) (BitVec.isLt _))

/-! ### AXNEXTs in a row -/

theorem afterNexts_succ {s : State} (hs : Ready s) (a : Axis) (n : Nat) :
    afterNexts a (n + 1) s = afterNexts a n (advanced s a 1) := by
  simp only [afterNexts, exec_axnext hs]

theorem Ready_afterNexts {s : State} (hs : Ready s) (a : Axis) (n : Nat) : Ready (afterNexts a n s) := by
  induction n generalizing s with
  | zero => exact hs
  | succ n ih =>
    rw [afterNexts_succ hs]
    exact ih (Ready_advanced hs a)

theorem geom_afterNexts {s : State} (hs : Ready s) (a : Axis) (n : Nat) : (afterNexts a n s).geom = s.geom := by
  induction n generalizing s with
  | zero => rfl
  | succ n ih =>
    rw [afterNexts_succ hs]
    exact ih (Ready_advanced hs a)

/-- The command that follows `n` AXNEXTs is one more advance by one. -/
theorem afterNexts_succ_last {s : State} (hs : Ready s) (a : Axis) (n : Nat) :
    afterNexts a (n + 1) s = advanced (afterNexts a n s) a 1 := by
  induction n generalizing s with
  | zero => exact afterNexts_succ hs a 0
  | succ n ih => rw [afterNexts_succ hs, ih (Ready_advanced hs a), afterNexts_succ hs]

/-- `n` AXNEXTs move the beam by `n` and write nothing else of the record. -/
theorem trk_afterNexts {s : State} (hs : Ready s) (a : Axis) (n : Nat) :
    (afterNexts a n s).trk = placed s.trk a ((beam s a + n) % (s.geom.axis a).max.toNat) := by
  induction n generalizing s with
  | zero => rw [Nat.add_zero, Nat.mod_eq_of_lt (Ready_beam_lt hs a), placed_beam]; rfl
  | succ n ih =>
    rw [afterNexts_succ hs, ih (Ready_advanced hs a), beam_advanced hs]
    change placed (placed s.trk a _) a ((_ + n) % (s.geom.axis a).max.toNat) = _
    rw [placed_placed, Nat.mod_add_mod, add_assoc, add_comm 1 n]

theorem beam_afterNexts {s : State} (hs : Ready s) (a : Axis) (n : Nat) :
    beam (afterNexts a n s) a = (beam s a + n) % (s.geom.axis a).max.toNat := by
  rw [beam, trk_afterNexts hs]
  exact placed_axis_toNat _ _ (lt_trans (Nat.mod_lt _ (Ready_max_pos hs a)) (BitVec.isLt _))

/-- The answer of each AXNEXT in a row (R71). -/
theorem resp_afterNexts_succ {s : State} (hs : Ready s) (a : Axis) (n : Nat) :
    (afterNexts a (n + 1) s).resp =
      asResp (decide (beam (afterNexts a n s) a + 1 = (s.geom.axis a).max.toNat)) := by
  have hwrap := wraps_next_iff (Ready_afterNexts hs a n) a
  rw [afterNexts_succ_last hs, ← geom_afterNexts hs a n, ← decide_eq_decide.2 hwrap]
  rfl

/-- Within one turn only the position that fills it up reaches `max - 1`. -/
theorem add_mod_succ_eq_iff {p k m : Nat} (hp : p < m) (hk : k < m) :
    (p + k) % m + 1 = m ↔ k = m - 1 - p := by
  rcases Nat.lt_or_ge (p + k) m with hlt | hge
  · rw [Nat.mod_eq_of_lt hlt]
    omega
  · rw [Nat.mod_eq_sub_mod hge, Nat.mod_eq_of_lt (by omega)]
    omega

/-! ### The obligations -/

/-- Settles O14: the advance is taken `mod max`, on the axis named. -/
theorem axaddAdvancesOneAxis : Obligations.AxaddAdvancesOneAxis := fun a i =>
  ⟨decode_fieldsWord (.axadd a i), faultsAsStated ⟨true, false, false, true⟩ nofun rfl rfl,
    fun _ hs => exec_axadd hs a i⟩

/-- Settles O15: an advance by one, which wraps exactly from `max - 1`. -/
theorem axnextAdvancesByOne : Obligations.AxnextAdvancesByOne := by
  refine fun a => ⟨decode_fieldsWord (.axnext a), faultsAsStated_axOnly nofun rfl, fun s hs => ?_⟩
  rw [← succ_mod_eq_ite (Ready_beam_lt hs a), ← decide_eq_decide.2 (wraps_next_iff hs a)]
  exact exec_axnext hs a

/-- Settles O16: the flag is written and the beam is not, and AXSCR reads both. -/
theorem axredSetsTheReduction : Obligations.AxredSetsTheReduction := by
  refine fun a b => ⟨decode_fieldsWord (.axred a b), faultsAsStated ⟨true, true, false, false⟩ nofun rfl rfl,
    fun s hf => ?_, fun s hf hred => ?_, fun s t hs h => ?_⟩
  · cases a <;> exact exec_axred _ b hf
  · rw [exec_axred a b hf, setReduced_of_reduced_eq hred]
    rfl
  · rw [exec_axred a b hs.2] at h
    obtain rfl := Host.Outcome.next.inj h
    have hscr := exec_axscr (s := complete s (s.trk.setReduced a b) 0 []) a (by simpa using hs.2)
      (Ready_max_pos hs a)
    simpa [beam] using hscr

/-- Settles O17: the corners are R18, `last_0 = max - 1`, and `first_0 = 0`. -/
theorem axb0AnswersTheBase0Form : Obligations.Axb0AnswersTheBase0Form := by
  refine fun a m => ⟨decode_fieldsWord (.axb0 a m), faultsAsStated ⟨true, false, false, true⟩ nofun rfl rfl,
    fun s hs => ⟨?_, ?_, ?_⟩⟩
  · rw [← zextPos_toBase0 (Ready_max_pos hs a)]
    exact query_of_ok hs.2
  · rintro rfl
    simp [base0]
  · rintro rfl
    have hlast := geomOK_last0 (Ready_geomOK hs) a
    rw [last0] at hlast
    rw [← toBase0_eq_base0 (Ready_max_pos hs a)]
    omega

/-- Settles O18: `first` and the beam are added `mod max`. -/
theorem axposAnswersTheAbsolutePosition : Obligations.AxposAnswersTheAbsolutePosition := by
  refine fun a => ⟨decode_fieldsWord (.axpos a), faultsAsStated_axOnly nofun rfl, fun s hs => ?_⟩
  rw [absolute, beam, ← posOf_toNat _ (Ready_max_pos hs a), ← zextPos_eq_ofNat]
  exact query_of_ok hs.2

/-- Settles O19: the bound is the range of a sound state's position. -/
theorem axpos0AnswersTheBase0Position : Obligations.Axpos0AnswersTheBase0Position := by
  refine fun a => ⟨decode_fieldsWord (.axpos0 a), faultsAsStated_axOnly nofun rfl,
    fun s hs => ⟨?_, Ready_beam_lt hs a⟩⟩
  rw [beam, ← zextPos_eq_ofNat]
  exact query_of_ok hs.2

/-- Settles O20: each answers its zone test at the beam. -/
theorem blankQueriesAnswerTheBlankZones : Obligations.BlankQueriesAnswerTheBlankZones := by
  refine fun a => ⟨decode_fieldsWord (.axblank a), decode_fieldsWord (.axlblank a), faultsAsStated_axOnly nofun rfl,
    faultsAsStated_axOnly nofun rfl, fun s hs => ⟨?_, ?_⟩⟩
  · rw [beam, ← inBlank_eq_blankAt (Ready_max_pos hs a), asResp_eq_zextBool]
    exact query_of_ok hs.2
  · rw [beam, ← inLastBlank_eq_lastBlankAt (Ready_max_pos hs a), asResp_eq_zextBool]
    exact query_of_ok hs.2

/-- Settles O21: each answers its zone test at the beam, and visible and blank are complements. -/
theorem visibleAndDisplayQueriesAnswerTheirZones : Obligations.VisibleAndDisplayQueriesAnswerTheirZones := by
  refine fun a => ⟨decode_fieldsWord (.axvis a), decode_fieldsWord (.axdisp a), faultsAsStated_axOnly nofun rfl,
    faultsAsStated_axOnly nofun rfl, fun s hs => ⟨?_, visibleAt_eq_not_blankAt _ _, exec_axdisp hs a⟩⟩
  rw [beam, ← inVisible_eq_visibleAt (Ready_max_pos hs a), asResp_eq_zextBool]
  exact query_of_ok hs.2

/-- Settles O22: AXSCR answers by the flag that stands, and without it by the display zone. -/
theorem screenQueryAnswersTheScreenZone : Obligations.ScreenQueryAnswersTheScreenZone := by
  refine fun a => ⟨decode_fieldsWord (.axscr a), faultsAsStated_axOnly nofun rfl, fun s hs => ?_⟩
  have hscr := exec_axscr a hs.2 (Ready_max_pos hs a)
  refine ⟨hscr, fun hred => ?_⟩
  rw [hscr, exec_axdisp hs, hred, screenAt_false]

/-- Settles O23: RESET with a valid geometry leaves a tracker that is not faulted, both flags down. -/
theorem axrdredAnswersTheReduction : Obligations.AxrdredAnswersTheReduction := by
  refine fun a => ⟨decode_fieldsWord (.axrdred a), faultsAsStated_axOnly nofun rfl, fun _ hf => exec_axrdred a hf,
    fun s t hok h => ?_⟩
  obtain rfl := Host.Outcome.next.inj h
  rw [exec_axrdred a (by simp [hok])]
  cases a <;> rfl

/-- Settles O24: after `k` AXNEXTs the beam is at `(p0 + k) mod max`, which is `max - 1` for one `k` of the turn. -/
theorem nextsOfAWholeTurnWrapExactlyOnce : Obligations.NextsOfAWholeTurnWrapExactlyOnce := by
  intro a s hs
  have hbeam := Ready_beam_lt hs a
  refine ⟨fun k _ => resp_afterNexts_succ hs a k, ?_, ?_⟩
  · have hone (b : Bool) : (asResp b == 1) = b := by cases b <;> rfl
    have hwrap (k : Nat) (hk : k < (s.geom.axis a).max.toNat) :
        ((afterNexts a (k + 1) s).resp == 1) = (k == (s.geom.axis a).max.toNat - 1 - beam s a) := by
      rw [resp_afterNexts_succ hs, hone, beam_afterNexts hs, beq_eq_decide,
        decide_eq_decide.2 (add_mod_succ_eq_iff hbeam hk)]
    calc ((List.range (s.geom.axis a).max.toNat).map fun k => (afterNexts a (k + 1) s).resp).count 1
        = (List.range (s.geom.axis a).max.toNat).countP fun k => (afterNexts a (k + 1) s).resp == 1 :=
          List.countP_map
      _ = (List.range (s.geom.axis a).max.toNat).count ((s.geom.axis a).max.toNat - 1 - beam s a) :=
          List.countP_congr fun k hk => by rw [hwrap k (List.mem_range.1 hk)]
      _ = 1 := List.count_eq_one_of_mem List.nodup_range (List.mem_range.2 (by omega))
  · rw [trk_afterNexts hs, Nat.add_mod_right, Nat.mod_eq_of_lt hbeam, placed_beam]

/-- Settles O25: each AXRED overwrites the flag of the one before, and AXSCR reads the flag that stands. -/
theorem reductionIsIdempotentAndReversible : Obligations.ReductionIsIdempotentAndReversible := by
  intro a s t1 t2 t3 hs hred h1 h2 h3
  have hf := hs.2
  rw [exec_axred a true hf] at h1
  obtain rfl := Host.Outcome.next.inj h1
  rw [exec_axred a true (by simpa using hf)] at h2
  obtain rfl := Host.Outcome.next.inj h2
  rw [exec_axred a false (by simpa using hf)] at h3
  obtain rfl := Host.Outcome.next.inj h3
  refine ⟨setReduced_setReduced s.trk a true true, ?_, fun p hp => ⟨?_, ?_⟩⟩
  · simp only [complete_trk, setReduced_setReduced]
    exact setReduced_of_reduced_eq hred
  · exact exec_axscr_placed (by simpa using hf) (by simp) hp
  · exact exec_axscr_placed (by simpa using hf) (by simp) hp

/-- Settles O26: the order of the base-0 boundaries is g4 of R114, and the trims only narrow. -/
theorem zonesAreNested : Obligations.ZonesAreNested := by
  intro s a hs
  have hmax := Ready_max_pos hs a
  obtain ⟨hfirst, -, hlast, -⟩ := axisOK_zone_order (geomOK_axis (Ready_geomOK hs) a)
  simp only [inScreen_iff, inDisplay_iff, inVisible_iff, inLastBlank_iff]
  refine ⟨?_, ?_, ?_, ?_⟩
  · rw [inBlank_eq_blankAt hmax, inVisible_eq_visibleAt hmax, visibleAt_eq_not_blankAt, Bool.not_not]
  · cases hred : (s.trk.axis a).reduced with
    | true =>
      rw [firstScr0_of_reduced hred, lastScr0_of_reduced hred]
      omega
    | false =>
      rw [firstScr0_of_not_reduced hred, lastScr0_of_not_reduced hred]
      omega
  · omega
  · rw [inBlank_iff]
    exact .inr

end Sys2Proof.Claims
end

-- The raster family: O29 to O36.
section
/-! PROOFS. The two-axis commands (41_raster_ops.md): the faults of a command without fields, the beam's zones,
coordinates and advance as the rules write them (R73, R74), and the rules R75 to R85 settled from them. -/

namespace Sys2Proof.Claims

open Sys2Proof.Machine

/-! ### Faults and answers -/

/-- A command whose row lists no field: every bit below the opcode is unused. -/
theorem faultsAsStated_noFields {i : Instr} {opc : BitVec 8} (hi : i ≠ .reset)
    (hu : fieldUse opc = some ⟨false, false, false, false⟩) : FaultsAsStated i opc 0x00FFFFFF :=
  faultsAsStated _ hi hu rfl

/-- A query that answers a Boolean. -/
theorem query_zextBool {s : State} (hf : s.trk.faulted = false) (b : Bool) :
    query s (zextBool b) = .next (answered s (asResp b)) := by
  rw [asResp_eq_zextBool]
  exact query_of_ok hf

/-! ### Zones and coordinates of the beam -/

section Beam

variable {s : State} (hs : Ready s)
include hs

theorem visible2_eq_beamVisible : visible2 s.geom s.trk = beamVisible s :=
  congrArg₂ and (inVisible_eq_visibleAt (Ready_max_pos hs .V) _) (inVisible_eq_visibleAt (Ready_max_pos hs .H) _)

theorem display2_eq_beamDisplay : display2 s.geom s.trk = beamDisplay s :=
  congrArg₂ and (inDisplay_eq_displayAt (Ready_max_pos hs .V) _) (inDisplay_eq_displayAt (Ready_max_pos hs .H) _)

theorem screen2_eq_beamScreen : screen2 s.geom s.trk = beamScreen s :=
  congrArg₂ and (inScreen_eq_screenAt (Ready_max_pos hs .V) _) (inScreen_eq_screenAt (Ready_max_pos hs .H) _)

theorem inVblank_eq_blankAt : inVblank s.geom s.trk = blankAt s.geom.v (beam s .V) :=
  inBlank_eq_blankAt (Ready_max_pos hs .V) _

theorem inLastVblank_eq_lastBlankAt : inLastVblank s.geom s.trk = lastBlankAt s.geom.v (beam s .V) :=
  inLastBlank_eq_lastBlankAt (Ready_max_pos hs .V) _

theorem visCoord_eq_beam_sub (a : Axis) : visCoord (s.geom.axis a) (s.trk.axis a) =
    (beam s a : Int) - base0 (s.geom.axis a) (s.geom.axis a).firstVis :=
  congrArg (_ - ·) (toBase0_eq_base0 (Ready_max_pos hs a) _)

theorem dispCoord_eq_beam_sub (a : Axis) : dispCoord (s.geom.axis a) (s.trk.axis a) =
    (beam s a : Int) - base0 (s.geom.axis a) (s.geom.axis a).firstDisp :=
  congrArg (_ - ·) (toBase0_eq_base0 (Ready_max_pos hs a) _)

theorem cycleInLine_eq_beam_div : cycleInLine s.geom s.trk = beam s .H / s.geom.ppc.toNat := by
  obtain ⟨hppc, -⟩ := geomOK_chip (Ready_geomOK hs)
  exact floorDiv_of_pos _ _ hppc

/-! ### The advance of the beam -/

/-- An advance of an axis places its beam `mod max` (R57). -/
theorem setP0_advance_eq_placed (t : Tracker) (a : Axis) (k : Nat) :
    t.setP0 a (advance (s.geom.axis a) (s.trk.axis a) k).1 =
      placed t a ((beam s a + k) % (s.geom.axis a).max.toNat) := by
  rw [advance_p0 _ _ _ (Ready_max_pos hs a), placed_eq_setP0, beam]

/-- Below the end of the line the advance moves H alone (R74). -/
theorem advanceBeam_of_lt {k : Nat} (hlt : beam s .H + k < s.geom.h.max.toNat) :
    advanceBeam s.geom s.trk k =
      { trk := placed s.trk .H (beam s .H + k), newLine := false, newFrame := false } := by
  obtain ⟨-, h⟩ | ⟨hge, -⟩ := advanceBeam_cases s.geom s.trk k
  · have hplaced := setP0_advance_eq_placed hs s.trk .H k
    rw [geometry_axis_H, Nat.mod_eq_of_lt hlt] at hplaced
    rw [h, ← hplaced]
    rfl
  · exact absurd hlt (Nat.not_lt.2 hge)

/-- From the end of the line on H wraps, and V advances by exactly one (R74). -/
theorem advanceBeam_of_le {k : Nat} (hge : s.geom.h.max.toNat ≤ beam s .H + k) :
    advanceBeam s.geom s.trk k =
      { trk := placed (placed s.trk .H ((beam s .H + k) % s.geom.h.max.toNat)) .V
          ((beam s .V + 1) % s.geom.v.max.toNat)
        newLine := true
        newFrame := decide (s.geom.v.max.toNat ≤ beam s .V + 1) } := by
  obtain ⟨hlt, -⟩ | ⟨-, h⟩ := advanceBeam_cases s.geom s.trk k
  · exact absurd hlt (Nat.not_lt.2 hge)
  · rw [h, ← geometry_axis_H, ← geometry_axis_V, ← setP0_advance_eq_placed hs, ← setP0_advance_eq_placed hs]
    rfl

end Beam

/-! ### MOVE -/

/-- OVERSTEP is answered by no command but a MOVE longer than a line (R100). -/
theorem long_move_of_rcode_overstep {i : Instr} {s t : State} (h : exec i s = .next t) (hcode : t.rcode = .overstep) :
    ∃ n : Pos, i = .move n ∧ s.geom.h.max.toNat < n.toNat * s.geom.ppc.toNat := by
  by_cases hi : i = .reset
  · subst hi
    obtain rfl := Host.Outcome.next.inj h
    revert hcode
    cases hok : geomOK s.geom <;> simp [resetCode, hok]
  cases hf : s.trk.faulted with
  | true =>
    rw [exec_of_faulted hf hi] at h
    obtain rfl := Host.Outcome.next.inj h
    cases hcode
  | false =>
    obtain ⟨-, n, rfl⟩ | ⟨trk, r, ev, rfl, -⟩ := exec_of_ok hf hi h
    · obtain rfl := Host.Outcome.next.inj ((unlessFaulted_of_ok hf).symm.trans h)
      obtain ⟨hlong, -⟩ | ⟨-, hmove⟩ := moveCycles_cases n s
      · exact ⟨n, rfl, hlong⟩
      · rw [hmove] at hcode
        cases hcode
    · cases hcode

/-- A MOVE longer than a line (R100). -/
theorem exec_move_overstep {n : Pos} {s : State} (hf : s.trk.faulted = false)
    (hlong : s.geom.h.max.toNat < n.toNat * s.geom.ppc.toNat) :
    exec (.move n) s = .next (faulting s .overstep) := by
  obtain ⟨-, h⟩ | ⟨hle, -⟩ := moveCycles_cases n s
  · exact (unlessFaulted_of_ok hf).trans (congrArg _ h)
  · exact absurd hlong (Nat.not_lt.2 hle)

/-- A MOVE of at most a line is an advance of the beam (R75). -/
theorem exec_move_advances {n : Pos} {s : State} (hf : s.trk.faulted = false)
    (hle : n.toNat * s.geom.ppc.toNat ≤ s.geom.h.max.toNat) :
    exec (.move n) s = .next (complete s (advanceBeam s.geom s.trk (n.toNat * s.geom.ppc.toNat)).trk
      (zextBool (advanceBeam s.geom s.trk (n.toNat * s.geom.ppc.toNat)).newLine) []) := by
  obtain ⟨hlong, -⟩ | ⟨-, h⟩ := moveCycles_cases n s
  · exact absurd hlong (Nat.not_lt.2 hle)
  · exact (unlessFaulted_of_ok hf).trans (congrArg _ h)

/-- A MOVE within the line (R75). -/
theorem exec_move_of_lt {n : Pos} {s : State} (hs : Ready s)
    (hle : n.toNat * s.geom.ppc.toNat ≤ s.geom.h.max.toNat)
    (hlt : beam s .H + n.toNat * s.geom.ppc.toNat < s.geom.h.max.toNat) :
    exec (.move n) s =
      .next (complete s (placed s.trk .H (beam s .H + n.toNat * s.geom.ppc.toNat)) 0 []) := by
  rw [exec_move_advances hs.2 hle, advanceBeam_of_lt hs hlt]
  rfl

/-- A MOVE across the end of the line: H has wrapped once, for `n * PPC` is at most a line (R75). -/
theorem exec_move_of_le {n : Pos} {s : State} (hs : Ready s)
    (hle : n.toNat * s.geom.ppc.toNat ≤ s.geom.h.max.toNat)
    (hge : s.geom.h.max.toNat ≤ beam s .H + n.toNat * s.geom.ppc.toNat) :
    exec (.move n) s = .next (complete s
      (placed (placed s.trk .H (beam s .H + n.toNat * s.geom.ppc.toNat - s.geom.h.max.toNat)) .V
        ((beam s .V + 1) % s.geom.v.max.toNat)) 1 []) := by
  have hbeam : beam s .H < s.geom.h.max.toNat := Ready_beam_lt hs .H
  rw [exec_move_advances hs.2 hle, advanceBeam_of_le hs hge, Nat.mod_eq_sub_mod hge, Nat.mod_eq_of_lt (by omega)]
  rfl

/-! ### Commands in a row -/

theorem afterCommands_cons {i : Instr} {s t : State} (h : exec i s = .next t) (is : List Instr) :
    afterCommands (i :: is) s = afterCommands is t := by
  rw [afterCommands, h]

/-- Two AXREDs in a row: each writes its flag. -/
theorem afterCommands_axred_axred {s : State} (hf : s.trk.faulted = false) (a c : Axis) (b d : Bool) :
    afterCommands [.axred a b, .axred c d] s = complete s ((s.trk.setReduced a b).setReduced c d) 0 [] := by
  rw [afterCommands_cons (exec_axred a b hf), afterCommands_cons (exec_axred c d (by simpa using hf))]
  rfl

/-! ### The obligations -/

/-- Settles O29: `n * PPC` is more than a line, or ends within the line, or crosses its end once. -/
theorem moveAdvancesTheBeamWithTheCascade : Obligations.MoveAdvancesTheBeamWithTheCascade :=
  ⟨fun _ _ _ => long_move_of_rcode_overstep, fun n =>
    ⟨decode_fieldsWord (.move n), faultsAsStated ⟨false, false, false, true⟩ nofun rfl rfl,
      fun _ => exec_move_overstep, fun _ => exec_move_of_lt, fun _ => exec_move_of_le⟩⟩

/-- Settles O30: a whole line always crosses the end, and `p0 + max - max` is `p0`. -/
theorem moveOfOneLineReturnsToTheColumn : Obligations.MoveOfOneLineReturnsToTheColumn := by
  intro n s hs hline
  rw [exec_move_of_le hs hline.le (by omega), hline, Nat.add_sub_cancel, placed_beam]
  rfl

/-- Settles O32: the origins `firstVis_0` and `firstDisp_0` are base-0 forms. -/
theorem coordinateQueriesAnswerSignedOffsets : Obligations.CoordinateQueriesAnswerSignedOffsets := by
  refine fun a => ⟨decode_fieldsWord (.vispos a), decode_fieldsWord (.disppos a), faultsAsStated_axOnly nofun rfl,
    faultsAsStated_axOnly nofun rfl, fun s hs => ⟨?_, ?_⟩⟩
  · rw [← visCoord_eq_beam_sub hs]
    exact query_of_ok hs.2
  · rw [← dispCoord_eq_beam_sub hs]
    exact query_of_ok hs.2

/-- Settles O33: `q` is the coordinate divided by the block width, with floor division. -/
theorem blkcolAnswersTheFlooredColumn : Obligations.BlkcolAnswersTheFlooredColumn := by
  refine ⟨decode_fieldsWord .blkcol, faultsAsStated_noFields nofun rfl,
    fun s hs => ⟨visCoord s.geom.h s.trk.h / 8, ?_, ?_⟩⟩
  · rw [Int.mul_comm]
    exact query_of_ok hs.2
  · have hcoord : visCoord s.geom.h s.trk.h = (beam s .H : Int) - base0 s.geom.h s.geom.h.firstVis :=
      visCoord_eq_beam_sub hs .H
    omega

/-- Settles O34: the bound is g6 of R114, a line holds a whole number of chip cycles. -/
theorem cycleAnswersTheChipCycle : Obligations.CycleAnswersTheChipCycle := by
  refine ⟨decode_fieldsWord .cycle, faultsAsStated_noFields nofun rfl, fun s hs => ⟨?_, ?_, ?_⟩⟩
  · rw [← cycleInLine_eq_beam_div hs]
    exact query_of_ok hs.2
  · obtain ⟨-, -, hwhole, -⟩ := geomOK_chip (Ready_geomOK hs)
    exact Nat.div_lt_div_of_lt_of_dvd (Nat.dvd_of_mod_eq_zero hwhole) (Ready_beam_lt hs .H)
  · rw [sourceCycle, cycleInLine_eq_beam_div hs, add_sub_cancel_right]

/-- Settles O35: each answers its zone's test on both axes. -/
theorem zoneQueriesOfTheBeamAreConjunctions : Obligations.ZoneQueriesOfTheBeamAreConjunctions := by
  refine ⟨decode_fieldsWord .vis2, decode_fieldsWord .disp2, decode_fieldsWord .scr2,
    faultsAsStated_noFields nofun rfl, faultsAsStated_noFields nofun rfl, faultsAsStated_noFields nofun rfl,
    fun s hs => ⟨?_, ?_, ?_⟩⟩
  · rw [← visible2_eq_beamVisible hs]
    exact query_zextBool hs.2 _
  · rw [← display2_eq_beamDisplay hs]
    exact query_zextBool hs.2 _
  · rw [← screen2_eq_beamScreen hs]
    exact query_zextBool hs.2 _

/-- Settles O36: each answers the vertical axis's own test. -/
theorem vblankQueriesReadTheVerticalAxis : Obligations.VblankQueriesReadTheVerticalAxis := by
  refine ⟨decode_fieldsWord .vblank, decode_fieldsWord .lastvblank, faultsAsStated_noFields nofun rfl,
    faultsAsStated_noFields nofun rfl, fun s hs => ⟨?_, ?_⟩⟩
  · rw [← inVblank_eq_blankAt hs]
    exact query_zextBool hs.2 _
  · rw [← inLastVblank_eq_lastBlankAt hs]
    exact query_zextBool hs.2 _

/-- Settles O31: RED2 is two AXREDs, and the halves write different axes. -/
theorem red2SetsBothReductions : Obligations.Red2SetsBothReductions := by
  refine fun v h => ⟨decode_fieldsWord (.red2 v h), faultsAsStated ⟨false, true, true, false⟩ nofun rfl rfl,
    fun s hf => ?_⟩
  have hred2 : exec (.red2 v h) s = .next (complete s ((s.trk.setReduced .V v).setReduced .H h) 0 []) :=
    unlessFaulted_of_ok hf
  refine ⟨hred2, ?_, ?_⟩
  · rw [hred2, afterCommands_axred_axred hf]
  · rw [hred2, afterCommands_axred_axred hf]
    rfl

end Sys2Proof.Claims
end

-- The driver family: O37 to O46.
section
/-! PROOFS. The cycle driver (42_cycle_driver.md): the chip cycle as the rules write it (R86 to R89), the record and
the events of a RUN (R90), the chip cycles of a whole frame, and the rules R88 to R96 settled from them. -/

namespace Sys2Proof.Machine

/-! ### A frame of chip cycles -/

/-- The record `t` at the start of line `k` of a frame, where the driver's loop leaves it: the latch set, and the
guard level with the zone. -/
def atLineStart (g : Geometry) (t : Tracker) (k : Nat) : Tracker :=
  { t with
    v := { t.v with p0 := BitVec.ofNat 16 k }
    newLine := true
    vblankSeen := inLastBlank g.v { t.v with p0 := BitVec.ofNat 16 k } }

theorem inLastBlank_ofNat {g : AxisGeometry} {x : AxisState} {k : Nat} (hk : k < g.max.toNat) :
    inLastBlank g { x with p0 := BitVec.ofNat 16 k } = decide ((lastVis0 g).toNat < k) := by
  rw [inLastBlank, BitVec.toNat_ofNat, Nat.mod_eq_of_lt (lt_trans hk g.max.isLt)]

theorem atLineStart_zero {g : Geometry} {t : Tracker} (hmax : 0 < g.v.max.toNat) (hv : t.v.p0 = 0)
    (hline : t.newLine = true) (hseen : t.vblankSeen = false) : atLineStart g t 0 = t := by
  rw [atLineStart, inLastBlank_ofNat hmax]
  obtain ⟨⟨p0, reduced⟩, h, newLine, vblankSeen, run, lastCPU, lineReg, err, faulted⟩ := t
  obtain rfl : p0 = 0 := hv
  obtain rfl : newLine = true := hline
  obtain rfl : vblankSeen = false := hseen
  rfl

section Frame

variable {g : Geometry} (hg : geomOK g = true) {t : Tracker} (hp : t.h.p0 = 0)
include hg hp

/-- One line of chip cycles leads from the start of a line to the start of the next (R88, R89). -/
theorem cycles_line {k : Nat} (hk : k < g.v.max.toNat) :
    cyclesTracker g (g.h.max.toNat / g.ppc.toNat) (atLineStart g t k) =
      atLineStart g t ((k + 1) % g.v.max.toNat) ∧
    frameReadyCount (cyclesEvents g (g.h.max.toNat / g.ppc.toNat) (atLineStart g t k)) =
      if (lastVis0 g.v).toNat < (k + 1) % g.v.max.toNat ∧ ¬(lastVis0 g.v).toNat < k then 1 else 0 := by
  have hnat : (BitVec.ofNat 16 k).toNat = k := by
    rw [BitVec.toNat_ofNat, Nat.mod_eq_of_lt (lt_trans hk g.v.max.isLt)]
  have hline := cycles_whole_line g (atLineStart g t k) hp hg rfl
  simp only [atLineStart, hnat] at hline ⊢
  simpa only [inLastBlank_ofNat hk, inLastBlank_ofNat (Nat.mod_lt _ (Nat.zero_lt_of_lt hk)), Bool.and_eq_true,
    Bool.not_eq_true', decide_eq_true_eq, decide_eq_false_iff_not] using hline

/-- The first `k` lines of a frame notify once, when they have passed the last visible line. -/
theorem cycles_lines {k : Nat} (hk : k < g.v.max.toNat) :
    cyclesTracker g (k * (g.h.max.toNat / g.ppc.toNat)) (atLineStart g t 0) = atLineStart g t k ∧
    frameReadyCount (cyclesEvents g (k * (g.h.max.toNat / g.ppc.toNat)) (atLineStart g t 0)) =
      if (lastVis0 g.v).toNat < k then 1 else 0 := by
  induction k with
  | zero => rw [Nat.zero_mul]; exact ⟨rfl, rfl⟩
  | succ k ih =>
    obtain ⟨htrk, hcount⟩ := ih (by omega)
    obtain ⟨hline, hlineCount⟩ := cycles_line hg hp (k := k) (by omega)
    rw [Nat.mod_eq_of_lt hk] at hline hlineCount
    rw [Nat.succ_mul, cyclesTracker_add, cyclesEvents_add, frameReadyCount_append, htrk, hcount, hline, hlineCount]
    refine ⟨rfl, ?_⟩
    split_ifs <;> omega

/-- A whole frame of chip cycles from the start of line 0: the last line wraps V, which ends the last blank zone and
notifies nothing. -/
theorem cycles_whole_frame (hv : t.v.p0 = 0) (hline : t.newLine = true) (hseen : t.vblankSeen = false) :
    cyclesTracker g (g.v.max.toNat * (g.h.max.toNat / g.ppc.toNat)) t = t ∧
    frameReadyCount (cyclesEvents g (g.v.max.toNat * (g.h.max.toNat / g.ppc.toNat)) t) =
      if (lastVis0 g.v).toNat + 1 < g.v.max.toNat then 1 else 0 := by
  have hmax := axisOK_max_pos (geomOK_axis hg .V)
  have hstart : atLineStart g t 0 = t := atLineStart_zero hmax hv hline hseen
  obtain ⟨n, hn⟩ : ∃ n, g.v.max.toNat = n + 1 := Nat.exists_eq_add_one.2 hmax
  obtain ⟨htrk, hcount⟩ := cycles_lines hg hp (k := n) (by omega)
  obtain ⟨hlast, hlastCount⟩ := cycles_line hg hp (k := n) (by omega)
  rw [hn, Nat.mod_self, hstart] at hlast
  rw [hn, Nat.mod_self] at hlastCount
  rw [hstart] at htrk hcount
  rw [hn, Nat.succ_mul, cyclesTracker_add, cyclesEvents_add, frameReadyCount_append, htrk, hcount, hlast, hlastCount]
  refine ⟨rfl, ?_⟩
  split_ifs <;> omega

end Frame

end Sys2Proof.Machine

namespace Sys2Proof.Claims

open Sys2Proof.Machine

/-! ### Packed words -/

/-- A packed word is the number with these binary digits, bit 0 first (R31, R88). -/
theorem packBits_eq_ofDigits (bs : List Bool) : packBits bs = BitVec.ofNat 32 (Nat.ofDigits 2 (bs.map num)) := by
  induction bs with
  | nil => rfl
  | cons b bs ih =>
    have hdisjoint (x : Word) : zextBool b &&& x <<< 1 = 0 := by
      cases b with
      | false => exact BitVec.zero_and
      | true =>
        ext i
        simp [zextBool]
        omega
    have hshift (n : Nat) : BitVec.ofNat 32 n <<< 1 = BitVec.ofNat 32 (2 * n) := by
      apply BitVec.eq_of_toNat_eq
      simp [Nat.shiftLeft_eq, Nat.mul_comm]
    rw [packBits, ← BitVec.add_eq_or_of_and_eq_zero _ _ (hdisjoint _), ih, hshift, ← asResp_eq_zextBool, asResp,
      ← BitVec.ofNat_add, List.map_cons, Nat.ofDigits_cons]

theorem tickWord_eq_ofNat (nl dr w fw fr : Bool) : tickWord nl dr w fw fr =
    BitVec.ofNat 32 (num nl + 2 * num dr + 4 * num w + 8 * num fw + 16 * num fr) := by
  rw [tickWord, packBits_eq_ofDigits]
  congr 1
  simp only [List.map_cons, List.map_nil, Nat.ofDigits_cons, Nat.ofDigits_nil]
  omega

theorem statusWord_eq_ofNat (t : Tracker) : statusWord t = BitVec.ofNat 32
    (num t.newLine + 2 * num t.vblankSeen + 4 * num (decide (t.run = .loop)) + 8 * num t.err +
      16 * num t.faulted + 32 * num t.v.reduced + 64 * num t.h.reduced) := by
  rw [statusWord, packBits_eq_ofDigits, beq_eq_decide]
  congr 1
  simp only [List.map_cons, List.map_nil, Nat.ofDigits_cons, Nat.ofDigits_nil]
  omega

/-! ### The chip cycle as the rules write it -/

/-- The record phase P5 leaves (R57, R88). -/
def tickAdvanced (s : State) : Tracker :=
  { s.trk with
    v := { p0 := BitVec.ofNat 16 (tickLine s), reduced := s.trk.v.reduced }
    h := { p0 := BitVec.ofNat 16 ((beam s .H + s.geom.ppc.toNat) % s.geom.h.max.toNat),
           reduced := s.trk.h.reduced }
    newLine := tickWraps s }

/-- The phases of the events of a chip cycle: three of the six are conditional (R86). -/
theorem phases_chipCycle (g : Geometry) (t : Tracker) :
    (eventsOf (chipCycle g t).evt).map phaseOf =
      (if t.newLine then [1] else []) ++ [2] ++ (if visible2 g t then [3] else []) ++ [4, 5] ++
        (if frameFires g (advancePhase g t).trk then [6] else []) := by
  simp only [chipCycle, eventsBefore, eventsAfter, eventsOf, emission, List.map_append, List.map_cons, List.map_nil,
    apply_ite (List.map _), phaseOf, List.append_assoc, List.cons_append, List.nil_append]

/-- The raster line as R17 writes it. -/
theorem rasterLine_eq_absolute {g : Geometry} (hm : 0 < g.v.max.toNat) (t : Tracker) :
    rasterLine g t = BitVec.ofNat 16 (absolute g.v t.v.p0.toNat) :=
  posOf_eq _ hm

theorem exec_tick {s : State} (hf : s.trk.faulted = false) : exec .tick s =
    .next (complete s (chipCycle s.geom s.trk).trk (chipCycle s.geom s.trk).resp (chipCycle s.geom s.trk).evt) :=
  unlessFaulted_of_ok hf

section Tick

variable {s : State} (hs : Ready s)
include hs

theorem tickLine_lt : tickLine s < s.geom.v.max.toNat := by
  have hbeam : beam s .V < s.geom.v.max.toNat := Ready_beam_lt hs .V
  rw [tickLine]
  split
  · exact Nat.mod_lt _ (Nat.zero_lt_of_lt hbeam)
  · exact hbeam

theorem tickAdvanced_line_toNat : (tickAdvanced s).v.p0.toNat = tickLine s :=
  (BitVec.toNat_ofNat ..).trans (Nat.mod_eq_of_lt (lt_trans (tickLine_lt hs) (BitVec.isLt _)))

/-- Phase P5 by R74: within the line, or across its end. -/
theorem advancePhase_eq_tickAdvanced :
    advancePhase s.geom s.trk = ⟨tickAdvanced s, tickWraps s, tickWrapsFrame s⟩ := by
  cases hwraps : tickWraps s with
  | false =>
    have hlt : beam s .H + s.geom.ppc.toNat < s.geom.h.max.toNat := by simpa [tickWraps] using hwraps
    rw [advancePhase, advanceBeam_of_lt hs hlt]
    simp only [beam, tracker_axis_H] at hlt
    simp [tickAdvanced, tickLine, tickWrapsFrame, hwraps, placed, beam, Nat.mod_eq_of_lt hlt]
  | true =>
    have hge : s.geom.h.max.toNat ≤ beam s .H + s.geom.ppc.toNat := by simpa [tickWraps] using hwraps
    rw [advancePhase, advanceBeam_of_le hs hge]
    simp [tickAdvanced, tickLine, tickWrapsFrame, hwraps, placed]

theorem rasterLine_tickAdvanced :
    rasterLine s.geom (tickAdvanced s) = BitVec.ofNat 16 (absolute s.geom.v (tickLine s)) := by
  rw [← tickAdvanced_line_toNat hs]
  exact rasterLine_eq_absolute (Ready_max_pos hs .V) _

theorem inLastVblank_tickAdvanced :
    inLastVblank s.geom (tickAdvanced s) = lastBlankAt s.geom.v (tickLine s) := by
  rw [← tickAdvanced_line_toNat hs]
  exact inLastBlank_eq_lastBlankAt (Ready_max_pos hs .V) _

theorem frameFires_tickAdvanced : frameFires s.geom (tickAdvanced s) = tickFires s :=
  congrArg (· && !s.trk.vblankSeen) (inLastVblank_tickAdvanced hs)

theorem drawWindowOf_eq_drawWindowAt : drawWindowOf s.geom s.trk = drawWindowAt s := by
  have hvis := visCoord_eq_beam_sub hs
  have hdisp := dispCoord_eq_beam_sub hs
  have hscr (a : Axis) := inScreen_eq_screenAt (Ready_max_pos hs a) (s.trk.axis a)
  rw [drawWindowOf, display2_eq_beamDisplay hs, screen2_eq_beamScreen hs, ← geometry_axis_H, ← geometry_axis_V,
    ← tracker_axis_H, ← tracker_axis_V, hvis, hvis, hdisp, hdisp, hscr, hscr]
  rfl

/-- The events of a chip cycle, in phase order (R86 to R89). -/
theorem events_eq_tickEvents :
    eventsBefore s.geom s.trk ++ eventsAfter s.geom ⟨tickAdvanced s, tickWraps s, tickWrapsFrame s⟩ =
      tickEvents s := by
  have hline : rasterLine s.geom s.trk = BitVec.ofNat 16 (absolute s.geom.v (beam s .V)) :=
    rasterLine_eq_absolute (Ready_max_pos hs .V) _
  simp only [eventsBefore, eventsAfter, tickEvents, emission, hline, rasterLine_tickAdvanced hs,
    visible2_eq_beamVisible hs, cycleInLine_eq_beam_div hs, drawWindowOf_eq_drawWindowAt hs,
    frameFires_tickAdvanced hs, List.append_assoc, List.singleton_append]
  rfl

/-- One chip cycle of a sound tracker (R86 to R89). -/
theorem chipCycle_eq_tick :
    chipCycle s.geom s.trk =
      { trk := { tickAdvanced s with vblankSeen := lastBlankAt s.geom.v (tickLine s) }
        evt := tickEvents s
        resp := BitVec.ofNat 32 (num s.trk.newLine + 2 * num (beamVisible s) + 4 * num (tickWraps s) +
          8 * num (tickWrapsFrame s) + 16 * num (tickFires s)) } := by
  rw [chipCycle, advancePhase_eq_tickAdvanced hs, framePhase, inLastVblank_tickAdvanced hs, events_eq_tickEvents hs,
    visible2_eq_beamVisible hs, frameFires_tickAdvanced hs, tickWord_eq_ofNat]

end Tick

/-! ### RUN -/

theorem exec_run_idle {s : State} (hf : s.trk.faulted = false) (hr : s.trk.run = .idle) :
    exec .run s = .next (runBaseline s) := by
  simp only [exec, execRun, unlessFaulted_of_ok hf, hr]

theorem exec_run_loop {s : State} (hf : s.trk.faulted = false) (hr : s.trk.run = .loop) :
    exec .run s = .next (runLoop s) := by
  simp only [exec, execRun, unlessFaulted_of_ok hf, hr]

/-- A RUN in the loop with the CPU count at `c`. -/
theorem exec_run_at {s : State} (hf : s.trk.faulted = false) (hr : s.trk.run = .loop) (c : Clk) :
    exec .run { s with cpuClk := c } = .next (runLoop { s with cpuClk := c }) :=
  exec_run_loop hf hr

/-- `n` TICKs in a row are `n` chip cycles (R90). -/
theorem afterTicks_eq_cycles {s : State} (hf : s.trk.faulted = false) (n : Nat) :
    (afterTicks n s).1.trk = cyclesTracker s.geom n s.trk ∧
      (afterTicks n s).2 = cyclesEvents s.geom n s.trk := by
  induction n generalizing s with
  | zero => exact ⟨rfl, rfl⟩
  | succ n ih =>
    obtain ⟨htrk, hevt⟩ := ih (s := complete s (chipCycle s.geom s.trk).trk (chipCycle s.geom s.trk).resp
      (chipCycle s.geom s.trk).evt) (by simpa using hf)
    simp only [afterTicks, exec_tick hf, htrk, hevt]
    exact ⟨rfl, rfl⟩

/-- The elapsed CPU cycles as R90 writes them. -/
theorem runCount_eq_emod (s : State) : runCount s =
    (((s.cpuClk.toNat : Int) - (s.trk.lastCPU.toNat : Int)) % 2 ^ 32).toNat * s.geom.cpc.toNat := by
  have hcpu := s.cpuClk.isLt
  have hlast := s.trk.lastCPU.isLt
  rw [runCount, BitVec.toNat_sub]
  congr 1
  omega

/-- A RUN's record and events, from the record before it: the chip cycles read neither the count kept nor the line
written back (R90). -/
theorem runLoop_eq_cycles (s : State) :
    (runLoop s).trk = { cyclesTracker s.geom (runCount s) s.trk with
      lastCPU := s.cpuClk, lineReg := rasterLine s.geom (cyclesTracker s.geom (runCount s) s.trk) } ∧
    eventsOf (runLoop s).evt = eventsOf (cyclesEvents s.geom (runCount s) s.trk) := by
  obtain ⟨htrk, hevt⟩ := cycles_with s.geom (runCount s) s.trk s.cpuClk s.trk.lineReg
  exact ⟨congrArg (fun t : Tracker => { t with lineReg := rasterLine s.geom t }) htrk, hevt⟩

/-- A RUN at `c1` and then one at `c2` are a RUN at `c2` when the counts add up (R92). -/
theorem runLoop_runLoop {s : State} {c1 c2 : Clk}
    (hsum : (c1 - s.trk.lastCPU).toNat + (c2 - c1).toNat = (c2 - s.trk.lastCPU).toNat) :
    let s1 := runLoop { s with cpuClk := c1 }
    (runLoop { s1 with cpuClk := c2 }).trk = (runLoop { s with cpuClk := c2 }).trk ∧
    eventsOf (s1.evt ++ (runLoop { s1 with cpuClk := c2 }).evt) = eventsOf (runLoop { s with cpuClk := c2 }).evt ∧
    runCount { s1 with cpuClk := c2 } = (c2 - c1).toNat * s.geom.cpc.toNat := by
  intro s1
  obtain ⟨htrk1, hevt1⟩ := runLoop_eq_cycles { s with cpuClk := c1 }
  obtain ⟨htrk2, hevt2⟩ := runLoop_eq_cycles { s1 with cpuClk := c2 }
  obtain ⟨htrk, hevt⟩ := runLoop_eq_cycles { s with cpuClk := c2 }
  have hcount2 : runCount { s1 with cpuClk := c2 } = (c2 - c1).toNat * s.geom.cpc.toNat := by
    change (c2 - s1.trk.lastCPU).toNat * s.geom.cpc.toNat = _
    rw [htrk1]
  have hcount : runCount { s with cpuClk := c2 } =
      runCount { s with cpuClk := c1 } + runCount { s1 with cpuClk := c2 } := by
    rw [hcount2, runCount, runCount, ← Nat.add_mul, hsum]
  obtain ⟨hwith, hwithEvt⟩ := cycles_with s.geom (runCount { s1 with cpuClk := c2 })
    (cyclesTracker s.geom (runCount { s with cpuClk := c1 }) s.trk) c1 s1.trk.lineReg
  have hs1 : s1.trk = { cyclesTracker s.geom (runCount { s with cpuClk := c1 }) s.trk with
      lastCPU := c1, lineReg := s1.trk.lineReg } := by
    rw [htrk1]
  rw [← hs1] at hwith hwithEvt
  refine ⟨?_, ?_, hcount2⟩
  · rw [htrk2, htrk, hcount, cyclesTracker_add]
    exact congrArg (fun t : Tracker => { t with lastCPU := c2, lineReg := rasterLine s.geom t }) hwith
  · calc eventsOf (s1.evt ++ (runLoop { s1 with cpuClk := c2 }).evt)
        = eventsOf s1.evt ++ eventsOf (runLoop { s1 with cpuClk := c2 }).evt := List.map_append
      _ = eventsOf (runLoop { s with cpuClk := c2 }).evt := by
          rw [hevt1, hevt2, hevt, hcount, cyclesEvents_add, eventsOf, eventsOf, eventsOf, List.map_append]
          exact congrArg _ hwithEvt

/-- RESET and the baseline RUN leave a sound tracker in the loop at the start of a frame (R90, R115, R122). -/
theorem exec_reset_then_baseline {s : State} (hok : geomOK s.geom = true) (c : Clk) : ∃ s1 s2,
    exec .reset s = .next s1 ∧ exec .run { s1 with cpuClk := c } = .next s2 ∧ Ready s2 ∧ s2.geom = s.geom ∧
      s2.trk = { resetTracker s.geom with lastCPU := c, run := .loop } ∧ s2.resp = 0 ∧ s2.evt = [] := by
  have hf : (resetTracker s.geom).faulted = false := by rw [resetTracker_faulted, hok]; rfl
  have hrun := exec_run_idle (s := { s with
    trk := resetTracker s.geom, resp := 0, rcode := resetCode s.geom, evt := [], cpuClk := c }) hf rfl
  exact ⟨_, _, rfl, hrun, ⟨exec_keeps_Inv (Inv_of_reset rfl rfl rfl rfl) hrun, hf⟩, rfl, rfl, rfl, rfl⟩

/-! ### The PAL profile -/

/-- A RUN counts from the CPU count the last RUN kept (R92), and a PAL chip cycle is a CPU cycle (R6). -/
theorem runCount_pal {s : State} {o : PalOpen} {c d : Clk} (hgeom : s.geom = Config.vicIIPal o)
    (hlast : s.trk.lastCPU = c) : runCount { s with cpuClk := c + d } = d.toNat := by
  simp only [runCount, hlast, add_sub_cancel_left, hgeom]
  exact Nat.mul_one _

/-- The PAL frame has a last blank zone when the last visible line is not the last line (R96). -/
theorem pal_lastBlank_nonempty {o : PalOpen} (hlast : o.vLastVis.toNat < 311) :
    base0 (Config.vicIIPal o).v (Config.vicIIPal o).v.lastVis + 1 < ((Config.vicIIPal o).v.max.toNat : Int) := by
  change ((o.vLastVis.toNat : Int) - 0) % 312 + 1 < 312
  omega

/-! ### The obligations -/

/-- Settles O37: the two phases of the chip cycle, with the advance and the zones as the rules write them. -/
theorem tickRunsOneChipCycle : Obligations.TickRunsOneChipCycle := by
  refine ⟨decode_fieldsWord .tick, faultsAsStated_noFields nofun rfl, fun s hs => ?_⟩
  rw [exec_tick hs.2, chipCycle_eq_tick hs]
  rfl

/-- Settles O38: both are `advanceBeam` by `PPC`, which is at most a line (g6 of R114). -/
theorem tickMovesTheBeamAsMoveOne : Obligations.TickMovesTheBeamAsMoveOne := by
  intro s hs
  obtain ⟨-, hppc, -⟩ := geomOK_chip (Ready_geomOK hs)
  have hone : (1 : Pos).toNat * s.geom.ppc.toNat = s.geom.ppc.toNat := Nat.one_mul _
  have hmove := exec_move_advances (n := 1) hs.2 (hone.trans_le hppc)
  rw [hone] at hmove
  refine ⟨_, _, exec_tick hs.2, hmove, rfl, ?_⟩
  simp only [complete_trk, complete_resp, chipCycle_trk, asResp_eq_zextBool]
  obtain ⟨hv, hh, -⟩ := advanceBeam_fields s.geom s.trk s.geom.ppc.toNat
  rw [← hv, ← hh]
  exact ⟨rfl, rfl, trivial⟩

/-- Settles O39: the phases are the six in order, less those whose condition fails. -/
theorem tickEventsComeInPhaseOrder : Obligations.TickEventsComeInPhaseOrder := by
  intro s t hf h
  rw [exec_tick hf] at h
  obtain rfl := Host.Outcome.next.inj h
  rw [complete_evt, phases_chipCycle]
  have hsome (b : Bool) (n : Nat) : (if b then [n] else []).Sublist [n] := by cases b <;> simp
  have hnone (l : List Nat) := List.nil_sublist l
  refine ⟨?_, ?_, ?_⟩
  · have hsix := ((((hsome s.trk.newLine 1).append (.refl [2])).append
      (hsome (visible2 s.geom s.trk) 3)).append (.refl [4, 5])).append
      (hsome (frameFires s.geom (advancePhase s.geom s.trk).trk) 6)
    exact List.Pairwise.sublist hsix (by decide)
  · exact ((((hnone _).append (.refl [2])).append (hnone _)).append (.refl [4, 5])).append (hnone _)
  · simp

/-- Settles O40: TICKs in a row are the chip cycles the RUN runs, and the line written back is the live one. -/
theorem runFollowsTheCpuCount : Obligations.RunFollowsTheCpuCount := by
  refine ⟨decode_fieldsWord .run, faultsAsStated_noFields nofun rfl, fun s => exec_run_idle, fun s t hf hr h => ?_,
    fun s hs hr => ?_⟩
  · rw [exec_run_loop hf hr] at h
    obtain rfl := Host.Outcome.next.inj h
    rfl
  · obtain ⟨htrk, hevt⟩ :=
      afterTicks_eq_cycles (s := { s with trk := { s.trk with lastCPU := s.cpuClk } }) hs.2 (runCount s)
    rw [exec_run_loop hs.2 hr, ← runCount_eq_emod]
    simp only [htrk, hevt, runLoop, rasterLine_eq_absolute (g := s.geom) (Ready_max_pos hs .V)]
    rfl

/-- Settles O41: the chip cycles of the two RUNs are those of one, and the RUN reads neither what the first one kept
nor what it wrote back. -/
theorem runsAddUpAcrossASampledCount : Obligations.RunsAddUpAcrossASampledCount := by
  intro s s1 s2 s12 c1 c2 hs hr hsum h1 h2 h12
  obtain rfl := Host.Outcome.next.inj ((exec_run_at hs.2 hr c1).symm.trans h1)
  obtain rfl := Host.Outcome.next.inj ((exec_run_at hs.2 hr c2).symm.trans h12)
  obtain ⟨hrun, -, hfaulted, -, -⟩ := runLoop_frame { s with cpuClk := c1 }
  obtain rfl := Host.Outcome.next.inj ((exec_run_at (hfaulted.trans hs.2) (hrun.trans hr) c2).symm.trans h2)
  obtain ⟨htrk, hevt, hcount⟩ := runLoop_runLoop hsum
  exact ⟨htrk, hevt, congrArg count32 hcount⟩

/-- Settles O42: the whole frame of chip cycles, with `first` the line of base-0 position 0. -/
theorem oneFrameReturnsToItsStart : Obligations.OneFrameReturnsToItsStart := by
  intro s hs hr hv hh hline hseen hframe
  have hg := Ready_geomOK hs
  have hmax : 0 < s.geom.v.max.toNat := Ready_max_pos hs .V
  have hv0 : s.trk.v.p0 = 0 := BitVec.eq_of_toNat_eq hv
  have hh0 : s.trk.h.p0 = 0 := BitVec.eq_of_toNat_eq hh
  obtain ⟨htrk, hcount⟩ := cycles_whole_frame hg (t := { s.trk with lastCPU := s.cpuClk }) hh0 hv0 hline hseen
  rw [← hframe] at htrk hcount
  have hfirst : rasterLine s.geom s.trk = s.geom.v.first := by
    apply BitVec.eq_of_toNat_eq
    rw [rasterLine, posOf_toNat _ hmax, hv0]
    exact Nat.mod_eq_of_lt (axisOK_first_lt (geomOK_axis hg .V))
  have hrun : (runLoop s).trk = { s.trk with lastCPU := s.cpuClk, lineReg := s.geom.v.first } := by
    rw [← hfirst]
    exact congrArg (fun t : Tracker => { t with lineReg := rasterLine s.geom t }) htrk
  refine ⟨_, exec_run_loop hs.2 hr, hrun, ?_, hcount.trans ?_⟩
  · rw [State.linePort, hrun]
    exact hfirst
  · rw [← toBase0_eq_base0 hmax]
    norm_cast

/-- Settles O43: RESET and the baseline leave the start of a frame, and 312 lines of 63 chip cycles are one frame. -/
theorem palFrameFiresOnceAndEndsAtLineZero : Obligations.PalFrameFiresOnceAndEndsAtLineZero := by
  intro o s c0 hgeom hok hlast
  obtain ⟨s1, s2, hreset, hbaseline, hs2, hgeom2, htrk2, hresp2, hevt2⟩ := exec_reset_then_baseline hok c0
  have hpal : s2.geom = Config.vicIIPal o := hgeom2.trans hgeom
  have hloop : s2.trk.run = .loop := by rw [htrk2]
  have hcycles : runCount { s2 with cpuClk := c0 + 312 * 63 } = 19656 := by
    rw [runCount_pal hpal (by rw [htrk2])]
    rfl
  obtain ⟨s3, hrun, htrk3, hline3, hcount3⟩ :=
    oneFrameReturnsToItsStart { s2 with cpuClk := c0 + 312 * 63 } hs2 hloop
      (by rw [beam, htrk2]; rfl) (by rw [beam, htrk2]; rfl) (by rw [htrk2]; rfl) (by rw [htrk2]; rfl)
      (hcycles.trans (by simp [hpal, Config.vicIIPal]))
  obtain rfl := Host.Outcome.next.inj ((exec_run_at hs2.2 hloop _).symm.trans hrun)
  have hfirst : s2.geom.v.first = 0 := by rw [hpal]; rfl
  refine ⟨s1, s2, _, hreset, hbaseline, hrun, hresp2, hevt2, rfl, congrArg count32 hcycles, ?_,
    hline3.trans hfirst, ?_, fun stall => ⟨_, exec_run_at ?_ ?_ _, ?_⟩⟩
  · rw [hcount3, if_pos]
    simp only [hpal]
    exact pal_lastBlank_nonempty hlast
  · rw [State.lineRegPort, htrk3]
    exact hfirst
  · rw [htrk3]
    exact hs2.2
  · rw [htrk3]
    exact hloop
  · have hstall := runCount_pal (s := runLoop { s2 with cpuClk := c0 + 312 * 63 }) (d := stall) hpal
      (congrArg Tracker.lastCPU htrk3)
    exact (congrArg count32 hstall).trans ((BitVec.ofNat_toNat ..).trans (BitVec.setWidth_eq _))

/-- Settles O44: the raster line is below `V.max`. -/
theorem linecmpComparesTheLiveLine : Obligations.LinecmpComparesTheLiveLine := by
  refine fun cmp => ⟨decode_fieldsWord (.linecmp cmp),
    faultsAsStated ⟨false, false, false, true⟩ nofun rfl rfl, fun s hs => ?_⟩
  have hmax := Ready_max_pos hs .V
  have hline : (rasterLine s.geom s.trk).toNat = absolute s.geom.v (beam s .V) := posOf_toNat _ hmax
  have hcmp : exec (.linecmp cmp) s = .next
      (answered s (asResp (decide (absolute s.geom.v (beam s .V) = cmp.toNat)))) := by
    rw [← hline, ← decide_eq_decide.2 BitVec.toNat_inj.symm, ← beq_eq_decide]
    exact query_zextBool hs.2 _
  refine ⟨hcmp, fun hge => ?_⟩
  have hlt : absolute s.geom.v (beam s .V) < s.geom.v.max.toNat := Nat.mod_lt _ hmax
  rw [hcmp, decide_eq_false (by omega)]
  rfl

/-- Settles O46: the status word is packed bit by bit. -/
theorem rdstatAnswersTheStatusWord : Obligations.RdstatAnswersTheStatusWord := by
  refine ⟨decode_fieldsWord .rdstat, faultsAsStated_noFields nofun rfl, fun s hf => ?_⟩
  rw [← statusWord_eq_ofNat]
  exact query_of_ok hf

/-- Settles O45: a chip cycle leaves `lineReg`. -/
theorem rdlineAnswersTheWrittenBackLine : Obligations.RdlineAnswersTheWrittenBackLine := by
  have hrdline {s : State} (hf : s.trk.faulted = false) :
      exec .rdline s = .next (answered s (BitVec.ofNat 32 s.trk.lineReg.toNat)) := by
    rw [← zextPos_eq_ofNat]
    exact query_of_ok hf
  refine ⟨decode_fieldsWord .rdline, faultsAsStated_noFields nofun rfl, fun s => hrdline, fun s t hf h => ?_⟩
  rw [exec_tick hf] at h
  obtain rfl := Host.Outcome.next.inj h
  rw [hrdline (by simpa using hf), complete_trk, chipCycle_lineReg]

end Sys2Proof.Claims
end

-- The exceptions family: O11 to O13, O55 and O57.
section
/-! PROOFS. The exceptions (60_exceptions.md): every step answers a next state, where a fault can come from, the
step of a faulted tracker, and the rules R97, R99, R101, R105 and R113 settled from them. -/

namespace Sys2Proof.Machine

/-! ### Every step answers -/

/-- Every command answers a next state: RESET always, and any other whether the tracker is faulted or not (R97). -/
theorem exec_answers (i : Instr) (s : State) : ∃ t, exec i s = .next t := by
  have hguard (s' : State) : ∃ t, unlessFaulted s s' = .next t := by
    cases hf : s.trk.faulted with
    | true => exact ⟨_, unlessFaulted_of_faulted hf⟩
    | false => exact ⟨_, unlessFaulted_of_ok hf⟩
  cases i
  case reset => exact ⟨_, rfl⟩
  all_goals exact hguard _

theorem step_of_no_command {s : State} (h : s.inputs = []) : step s = .next s := by
  simp only [step, h]

/-! ### Where a fault comes from -/

/-- `step_cases` with a word presented: refuse it in the order of R101, or run its command. -/
theorem step_cases_of_inputs {s t : State} {tx : Transaction} {rest : List Transaction}
    (hin : s.inputs = tx :: rest) (h : step s = .next t) :
    (s.trk.faulted = true ∧ tx.cmd ≠ resetWord ∧ t = raiseFault (present s tx rest) .geometryInvalid) ∨
    (¬(s.trk.faulted = true ∧ tx.cmd ≠ resetWord) ∧ (∀ i, decode tx.cmd ≠ .ok i) ∧
      t = raiseFault (present s tx rest) .illegalCommand) ∨
    (¬(s.trk.faulted = true ∧ tx.cmd ≠ resetWord) ∧
      ∃ i, decode tx.cmd = .ok i ∧ exec i (present s tx rest) = .next t) := by
  obtain ⟨hnil, -⟩ | ⟨tx', rest', hin', hcases⟩ := step_cases h
  · rw [hin] at hnil
    cases hnil
  · obtain ⟨rfl, rfl⟩ := List.cons.inj (hin.symm.trans hin')
    exact hcases

/-- The faults of a command on a tracker that let it in: RESET with an invalid geometry (R115), or a MOVE longer
than a line (R100). -/
theorem exec_fault_cases {i : Instr} {s t : State} (hlet : i ≠ .reset → s.trk.faulted = false)
    (h : exec i s = .next t) (hne : t.rcode ≠ .ok) :
    (i = .reset ∧ geomOK s.geom = false ∧ t.rcode = .geometryInvalid) ∨
    (t = raiseFault s .overstep ∧ ∃ n : Pos, i = .move n ∧ s.geom.h.max.toNat < n.toNat * s.geom.ppc.toNat) := by
  by_cases hi : i = .reset
  · subst hi
    obtain rfl := Host.Outcome.next.inj h
    have hbad : geomOK s.geom = false := by simpa [resetCode] using hne
    exact .inl ⟨rfl, hbad, by simp [resetCode, hbad]⟩
  · obtain ⟨ht, -⟩ | ⟨trk, r, ev, rfl, -⟩ := exec_of_ok (hlet hi) hi h
    · have hcode : t.rcode = .overstep := congrArg State.rcode ht
      exact .inr ⟨ht, Claims.long_move_of_rcode_overstep h hcode⟩
    · exact absurd rfl hne

/-! ### The faulted tracker -/

/-- A sound faulted tracker holds the record of RESET with an invalid geometry (R27, R99). -/
theorem Inv_faulted {s : State} (hs : Inv s) (hf : s.trk.faulted = true) :
    geomOK s.geom = false ∧ s.trk = resetTracker s.geom := by
  obtain ⟨hfaulted, -, hstuck, -⟩ := hs
  have hbad : geomOK s.geom = false := by simpa [hf] using hfaulted
  exact ⟨hbad, hstuck hbad⟩

/-- A sound faulted tracker answers GEOMETRY_INVALID to every word and keeps its record: a fault sets the `err`
that is set already, and RESET rebuilds the record it finds (R99). -/
theorem step_of_faulted {s : State} (hs : Inv s) (hf : s.trk.faulted = true) {tx : Transaction}
    {rest : List Transaction} (hin : s.inputs = tx :: rest) :
    step s = .next { present s tx rest with resp := 0, rcode := .geometryInvalid, evt := [] } := by
  obtain ⟨hbad, htrk⟩ := Inv_faulted hs hf
  by_cases hword : tx.cmd = resetWord
  · have hexec : step s = exec .reset (present s tx rest) :=
      Claims.stepRunsThePresentedCommand s tx rest _ hin ((decode_eq_reset_iff _).2 hword)
    rw [hexec]
    simp [exec, execReset, resetCode, hbad, present, htrk]
  · have herr : s.trk.err = true := by simp [htrk, hbad]
    have hkeep : { s.trk with err := true } = s.trk := by rw [← herr]
    rw [step_of_acceptWord_error hin (acceptWord_of_faulted ⟨hf, hword⟩)]
    simp only [raiseFault, present, hkeep]

end Sys2Proof.Machine

namespace Sys2Proof.Claims

open Sys2Proof.Machine

/-! ### The obligations -/

/-- Settles O11: the admission of the word answers before the row that selects it, and MOVE's own check comes last;
bits 23:16 are unused in a MOVE. -/
theorem faultPriorityIsGeometryThenDecodeThenOperand : Obligations.FaultPriorityIsGeometryThenDecodeThenOperand := by
  intro s tx rest hin
  refine ⟨fun hf hword => step_of_acceptWord_error hin (acceptWord_of_faulted ⟨hf, hword⟩),
    fun hf hnone => step_of_acceptWord_error hin (acceptWord_of_illegal (by simp [hf]) hnone),
    fun hf hopc hbits => ?_, fun hf n hcmd hlong => ?_⟩
  · have hstray : tx.cmd &&& 0x00FF0000 ≠ 0 := by
      intro hclear
      have hmasked : (tx.cmd &&& 0x00FF0000).extractLsb' 16 8 = tx.cmd.extractLsb' 16 8 := by
        rw [BitVec.extractLsb'_and]
        exact BitVec.and_allOnes
      rw [hclear] at hmasked
      exact hbits hmasked.symm
    obtain ⟨-, hillegal⟩ : FaultsAsStated (.move 0) 0x20 0x00FF0000 :=
      faultsAsStated ⟨false, false, false, true⟩ nofun rfl rfl
    exact hillegal s tx rest hin hf hopc hstray
  · have hdecode : decode tx.cmd = .ok (.move n) := by
      rw [hcmd]
      exact decode_fieldsWord (.move n)
    rw [stepRunsThePresentedCommand s tx rest _ hin hdecode]
    exact exec_move_overstep hf hlong

/-- Settles O13: the step holds the state, refuses the word with a response, or runs a command. -/
theorem everyStepAnswersANextState : Obligations.EveryStepAnswersANextState := by
  intro s
  cases hin : s.inputs with
  | nil => exact ⟨s, step_of_no_command hin⟩
  | cons tx rest =>
    cases hword : acceptWord s.trk.faulted tx.cmd with
    | error c => exact ⟨_, step_of_acceptWord_error hin hword⟩
    | ok i =>
      rw [step_of_acceptWord_ok hin hword]
      exact exec_answers i _

/-- Settles O55: `step_of_faulted` on a word, RESET's among them; with no word the state stays. -/
theorem faultedTrackerIsStuck : Obligations.FaultedTrackerIsStuck := by
  intro s t hs hf h
  cases hin : s.inputs with
  | nil =>
    obtain rfl := Host.Outcome.next.inj ((step_of_no_command hin).symm.trans h)
    exact ⟨rfl, fun hne => absurd rfl hne⟩
  | cons tx rest =>
    obtain rfl := Host.Outcome.next.inj ((step_of_faulted hs hf hin).symm.trans h)
    exact ⟨rfl, fun _ => ⟨rfl, rfl, rfl⟩⟩

/-- Settles O57: the two refusals of a word are `raiseFault`, and so is MOVE's; RESET is the exact RESET word. -/
theorem faultsArePrecise : Obligations.FaultsArePrecise := by
  intro s t tx rest hin h hne
  obtain ⟨hf, hword, rfl⟩ | ⟨-, hnone, rfl⟩ | ⟨hlet, i, hdecode, hexec⟩ := step_cases_of_inputs hin h
  · exact ⟨fun _ => rfl, .inl ⟨hf, hword, rfl⟩⟩
  · exact ⟨fun _ => rfl, .inr (.inl ⟨hnone, rfl⟩)⟩
  · have hadmitted : i ≠ .reset → s.trk.faulted = false := by
      intro hi
      by_contra hf
      refine hlet ⟨by simpa using hf, fun hword => hi ?_⟩
      exact Except.ok.inj (hdecode.symm.trans ((decode_eq_reset_iff _).2 hword))
    obtain ⟨rfl, hbad, hcode⟩ | ⟨rfl, n, rfl, hlong⟩ :=
      exec_fault_cases (s := present s tx rest) hadmitted hexec hne
    · have hword := (decode_eq_reset_iff _).1 hdecode
      exact ⟨fun hother => absurd hword hother, .inr (.inr (.inr ⟨hword, hbad, hcode⟩))⟩
    · exact ⟨fun _ => rfl, .inr (.inr (.inl ⟨n, hdecode, hlong, rfl⟩))⟩

/-- Settles O12: an empty queue leaves the state as it is. -/
theorem trackerHoldsItsStateBetweenCommands : Obligations.TrackerHoldsItsStateBetweenCommands :=
  fun _ => step_of_no_command

end Sys2Proof.Claims
end

-- The reset and hazards family: O47 to O50 and O59.
section
/-! PROOFS. Reset and hazards (70_reset_and_hazards.md): the geometry invariants in plain arithmetic (R114), the record
RESET leaves and the words that are RESET (R115), the boot order (R117), and the commands that bypass the loop with the
TICK after them (R123). -/

namespace Sys2Proof

/-! ### The words of RESET's opcode -/

theorem eq_reset_of_opcodeOf {i : Instr} (h : opcodeOf i = 0x01) : i = .reset := by
  cases i
  case reset => rfl
  all_goals exact absurd h (ne_of_beq_false rfl)

/-- The exact RESET word is the only word of its opcode that is a command (R54, R115). -/
theorem eq_resetWord_of_decode {cw : Word} {i : Instr} (hopc : opcField cw = 0x01) (hd : decode cw = .ok i) :
    cw = resetWord := by
  obtain ⟨hi, -⟩ := opcField_of_decode hd
  obtain rfl := eq_reset_of_opcodeOf (hi.symm.trans hopc)
  exact (decode_eq_reset_iff cw).1 hd

end Sys2Proof

namespace Sys2Proof.Machine

/-! ### The record RESET leaves -/

/-- With a valid geometry the raster line of RESET's beam is `first`, which is below `max` (R114, R115). -/
theorem resetTracker_of_geomOK {g : Geometry} (hok : geomOK g = true) :
    resetTracker g =
      { v := { p0 := 0, reduced := false }, h := { p0 := 0, reduced := false }, newLine := true,
        vblankSeen := false, run := .idle, lastCPU := 0, lineReg := g.v.first, err := false, faulted := false } := by
  have hax : axisOK g.v = true := geomOK_axis hok .V
  have hline : modulo (g.v.first.toNat : Int) g.v.max = g.v.first := by
    apply BitVec.eq_of_toNat_eq
    rw [modulo_natCast_toNat _ _ (axisOK_max_pos hax), Nat.mod_eq_of_lt (axisOK_first_lt hax)]
  simp [resetTracker, hok, hline]

/-! ### The commands of the boot order -/

theorem exec_red2 {s : State} (v h : Bool) (hf : s.trk.faulted = false) :
    exec (.red2 v h) s = .next (complete s ((s.trk.setReduced .V v).setReduced .H h) 0 []) :=
  unlessFaulted_of_ok hf

/-! ### The commands that bypass the loop -/

/-- A command that bypasses the loop leaves the latches and the fault state and emits nothing, a MOVE that ends in
OVERSTEP too (R123). -/
theorem exec_of_bypassesLoop {i : Instr} {s t : State} (hi : bypassesLoop i = true) (hf : s.trk.faulted = false)
    (h : exec i s = .next t) :
    t.trk.newLine = s.trk.newLine ∧ t.trk.vblankSeen = s.trk.vblankSeen ∧ t.trk.faulted = s.trk.faulted ∧
      t.evt = [] := by
  cases i
  case axadd | axnext =>
    obtain rfl := Host.Outcome.next.inj ((unlessFaulted_of_ok hf).symm.trans h)
    simp
  case move n =>
    obtain rfl := Host.Outcome.next.inj ((unlessFaulted_of_ok hf).symm.trans h)
    obtain ⟨-, hmove⟩ | ⟨-, hmove⟩ := moveCycles_cases n s
    · rw [hmove]
      exact ⟨rfl, rfl, rfl, rfl⟩
    · simp [hmove, advanceBeam_fields]
  all_goals exact absurd hi Bool.false_ne_true

end Sys2Proof.Machine

namespace Sys2Proof.Claims

open Sys2Proof.Machine

/-! ### The geometry invariants -/

section Geometry

variable {g : AxisGeometry} (hm : 0 < g.max.toNat)
include hm

theorem geomG3_iff : geomG3 g = true ↔ base0 g g.last = (g.max.toNat : Int) - 1 := by
  rw [geomG3, decide_eq_true_iff, ← toBase0_eq_base0 hm, last0]
  omega

theorem geomG4_iff : geomG4 g = true ↔ base0 g g.firstVis ≤ base0 g g.firstDisp ∧
    base0 g g.firstDisp ≤ base0 g g.lastDisp ∧ base0 g g.lastDisp ≤ base0 g g.lastVis := by
  simp only [geomG4, decide_eq_true_iff, ← toBase0_eq_base0 hm, Nat.cast_le]
  rfl

theorem geomG5_iff : geomG5 g = true ↔
    (g.r1.toNat : Int) + (g.r2.toNat : Int) ≤ base0 g g.lastDisp - base0 g g.firstDisp := by
  rw [geomG5, decide_eq_true_iff, ← toBase0_eq_base0 hm, ← toBase0_eq_base0 hm]
  rfl

end Geometry

/-- g1 to g5 of R114; g1 is what gives the base-0 forms of g3 to g5 their meaning. -/
theorem axisOK_iff (g : AxisGeometry) : axisOK g = true ↔
    1 ≤ g.max.toNat ∧ g.max.toNat ≤ 65535 ∧
    g.first.toNat < g.max.toNat ∧ g.firstVis.toNat < g.max.toNat ∧ g.firstDisp.toNat < g.max.toNat ∧
    g.lastDisp.toNat < g.max.toNat ∧ g.lastVis.toNat < g.max.toNat ∧ g.last.toNat < g.max.toNat ∧
    base0 g g.last = (g.max.toNat : Int) - 1 ∧
    base0 g g.firstVis ≤ base0 g g.firstDisp ∧ base0 g g.firstDisp ≤ base0 g g.lastDisp ∧
    base0 g g.lastDisp ≤ base0 g g.lastVis ∧
    (g.r1.toNat : Int) + (g.r2.toNat : Int) ≤ base0 g g.lastDisp - base0 g g.firstDisp := by
  rcases Nat.eq_zero_or_pos g.max.toNat with h0 | hm
  · simp [axisOK, geomG1, h0]
  · have hwidth : g.max.toNat ≤ 65535 := Nat.le_of_lt_succ g.max.isLt
    simp only [axisOK, geomG1, geomG2, Bool.and_eq_true, decide_eq_true_iff, geomG3_iff hm, geomG4_iff hm,
      geomG5_iff hm, hwidth, true_and, and_assoc]

theorem geomOK_iff_forall_axis (g : Geometry) :
    geomOK g = true ↔ (∀ a, axisOK (g.axis a) = true) ∧ geomG6 g = true ∧ geomG7 g = true := by
  rw [geomOK_iff, ← and_assoc]
  refine and_congr_left' ⟨fun ⟨hv, hh⟩ a => ?_, fun h => ⟨h .V, h .H⟩⟩
  cases a
  · exact hv
  · exact hh

/-! ### The TICK after a bypass -/

/-- A TICK notifies exactly when it ends in the last VBlank zone with the guard down before it (R89). -/
theorem frameReadyCount_of_exec_tick {s u : State} (hs : Ready s) (h : exec .tick s = .next u) :
    frameReadyCount u.evt = if lastBlankAt u.geom.v (beam u .V) && !s.trk.vblankSeen then 1 else 0 := by
  rw [exec_tick hs.2] at h
  obtain rfl := Host.Outcome.next.inj h
  have hline : (chipCycle s.geom s.trk).trk.v.p0.toNat = tickLine s := by
    rw [chipCycle_eq_tick hs]
    exact tickAdvanced_line_toNat hs
  rw [complete_evt, frameReadyCount_chipCycle, advancePhase_eq_tickAdvanced hs, frameFires_tickAdvanced hs, tickFires,
    ← hline]
  rfl

/-! ### The obligations -/

/-- Settles O48: RESET writes every field power-on sets but the inputs and the geometry. -/
theorem powerOnEqualsReset : Obligations.PowerOnEqualsReset := fun _ => rfl

/-- Settles O47: a word of RESET's opcode decodes only when it is the RESET word, and the record is the one of
`resetTracker`. -/
theorem resetRebuildsTheTracker : Obligations.ResetRebuildsTheTracker := by
  refine ⟨(decode_eq_reset_iff _).2 rfl, fun s tx rest hin hopc hne => ?_, fun s tx rest hin hcmd => ?_,
    fun s hok => ?_, fun s hbad => ⟨(resetTracker s.geom).lineReg, modulo_natCast_toNat _ _, ?_⟩⟩
  · cases hf : s.trk.faulted with
    | true => exact step_of_acceptWord_error hin (acceptWord_of_faulted ⟨hf, hne⟩)
    | false =>
      exact step_of_acceptWord_error hin
        (acceptWord_of_illegal (by simp [hf]) fun i hd => hne (eq_resetWord_of_decode hopc hd))
  · exact stepRunsThePresentedCommand s tx rest _ hin ((decode_eq_reset_iff _).2 hcmd)
  · rw [powerOnEqualsReset s, ← resetTracker_of_geomOK hok]
    simp [State.powerOn, resetCode, hok]
  · rw [powerOnEqualsReset s]
    simp [State.powerOn, resetCode, resetTracker, hbad]

/-- Settles O49: each axis has g1 to g5, and the chip g6 and g7. -/
theorem geometryIsValidExactlyUnderG1ToG7 : Obligations.GeometryIsValidExactlyUnderG1ToG7 := by
  intro g
  rw [geomOK_iff_forall_axis]
  refine and_congr (forall_congr' fun a => axisOK_iff _) ?_
  simp only [geomG6, geomG7, decide_eq_true_iff, and_assoc]

/-- With or without the RED2, the boot order comes to its RUN with the reductions of the register bank (R117). -/
theorem afterCommands_boot {s : State} (rows24 cols38 : Bool) (hok : geomOK s.geom = true) :
    ∃ t, afterCommands (bootCommands rows24 cols38) s = afterCommands [.run] t ∧ t.cpuClk = s.cpuClk ∧
      t.trk = { resetTracker s.geom with
        v := { p0 := 0, reduced := rows24 }, h := { p0 := 0, reduced := cols38 } } := by
  cases hred : rows24 || cols38 with
  | false =>
    obtain ⟨rfl, rfl⟩ := Bool.or_eq_false_iff.1 hred
    exact ⟨_, afterCommands_cons (powerOnEqualsReset s) _, rfl, rfl⟩
  | true =>
    have hf : (resetTracker s.geom).faulted = false := by simp [hok]
    rw [bootCommands, hred]
    exact ⟨_, (afterCommands_cons (powerOnEqualsReset s) _).trans
      (afterCommands_cons (exec_red2 rows24 cols38 hf) _), rfl, rfl⟩

/-- Settles O50: the RUN is the baseline, which writes the CPU's count and enters the loop. -/
theorem bootLeavesTheLoopEntered : Obligations.BootLeavesTheLoopEntered := by
  intro s rows24 cols38 hok
  obtain ⟨t, hboot, hcpu, htrk⟩ := afterCommands_boot rows24 cols38 hok
  have hf : t.trk.faulted = false := by simp [htrk, hok]
  have hidle : t.trk.run = .idle := by simp [htrk]
  rw [hboot, afterCommands_cons (exec_run_idle hf hidle)]
  simp [afterCommands, runBaseline, htrk, hcpu]

/-- Settles O59: the TICK starts with the guard the bypass left down. -/
theorem bypassCommandsLeaveTheLatches : Obligations.BypassCommandsLeaveTheLatches := by
  intro i s t u hi hs h
  obtain ⟨hline, hseen, hfaulted, hevt⟩ := exec_of_bypassesLoop hi hs.2 h
  refine ⟨hline, hseen, hevt, fun htick hblank hdown => ?_⟩
  have ht : Ready t := ⟨exec_keeps_Inv hs.1 h, hfaulted.trans hs.2⟩
  rw [frameReadyCount_of_exec_tick ht htick, hblank, hseen, hdown]
  rfl

end Sys2Proof.Claims
end
